-- ==== Sys2Proof/Word.lean ====
section
/-! DEFINITION. The widths the spec gives: `BYTE`, `HEADING_BITS`, `RADIUS_BITS`, `COORD_BITS`, `MAP_SPEED_BITS`
(spec/00_scope.md R8). -/

namespace Sys2Proof

/-- A byte: every frame field, every payload element and `SEQ` (R8 `BYTE`, `SEQ_BITS`). -/
abbrev Byte := BitVec 8

/-- A 16-bit word: a heading, `LASTHEADING`, a coordinate pattern, a radius (R8). -/
abbrev Word16 := BitVec 16

/-- A 32-bit word: the mapper's unclamped speed (R8 `MAP_SPEED_BITS`). -/
abbrev Word32 := BitVec 32

end Sys2Proof
end

