-- ==== Sys2Proof/Machine/State.lean ====
section
/-! DEFINITION. The state of the machine: the six registers of spec/10_state.md R30, the three traces of R39, and
what the environment presents at the block's input ports (spec/20_memory.md R61). Its value at reset (R41, R290). -/

namespace Sys2Proof.Machine

/-- The label of a transport write: `G` when its settling releases the gate, `U` when it does not (R64). -/
inductive Tag where
  | G
  | U
deriving DecidableEq, Repr

/-- How a transport write settled (R65). -/
inductive Status where
  | ok
  | fail
deriving DecidableEq, Repr

/-- One hand-over to the Transport (R64). -/
structure TxWrite where
  tag : Tag
  frame : List Byte
deriving DecidableEq, Repr

/-- One completion reported on `SETTLE` (R65). -/
structure SettleEvent where
  tag : Tag
  status : Status
deriving DecidableEq, Repr

/-- What happens next at the block's boundary: the next request packet, settle event or retry tick becomes a step
(R11), `READY` takes a level (R68), or the reset input acts (R291). The last two are the model's way to let those two
inputs change during a run (log 3, log 6). -/
inductive Arrival where
  | request
  | settle
  | tick
  | ready (level : Bool)
  | reset
deriving DecidableEq, Repr

/-- Registers, traces and inputs. Traces and input streams are oldest first. -/
structure State where
  /-- `SEQ`, the sequence register (R31) -/
  seq : Byte
  /-- `BUSY`, the gate flag (R32) -/
  busy : Bool
  /-- `LASTHEADING`, the last-sent heading (R33) -/
  lastHeading : Word16
  /-- `STOPQ`, the number of stop requests waiting for the gate (R34) -/
  stopq : Nat
  /-- `INFLIGHT_G`, gated writes handed over and not settled (R35) -/
  inflightG : Nat
  /-- `INFLIGHT_U`, ungated writes handed over and not settled (R35) -/
  inflightU : Nat
  /-- `TXLOG`, the transmit trace (R39, R64) -/
  txLog : List TxWrite
  /-- the response trace (R39, R63) -/
  rspLog : List (List Byte)
  /-- the diagnostic trace (R39, R67) -/
  diagLog : List Byte
  /-- `READY`, the level the handshake collaborator drives (R68) -/
  ready : Bool
  /-- request packets presented on `REQ` and not consumed (R62) -/
  req : List (List Byte)
  /-- settle events presented on `SETTLE` and not consumed (R65) -/
  settle : List SettleEvent
  /-- retry ticks presented on `TICK` and not consumed (R66) -/
  ticks : Nat
  /-- the serialisation of the inputs, which the spec leaves open (R275; log 1) -/
  schedule : List Arrival
deriving DecidableEq, Repr

/-- No fault stops this machine: every fault of R251 is reported on a port and the block takes its next input
(R260, R263). So there is nothing to raise here, and no run of the model ends in a fault (log 11). -/
inductive Fault
deriving DecidableEq, Repr

/-- Inputs to which the spec gives no meaning. -/
inductive Refusal where
  /-- Raised by no meaning: the name of an operation whose arm has none. Safe. -/
  | notModelled (mnemonic : String)
  /-- Raised by the six commands when `READY` is 0 (spec/93_implementation_defined.md U7: refuse). Safe: no claim
  can be made of such a run. -/
  | commandBeforeReady
  /-- Raised by a settle event whose in-flight counter is 0 (U8: refuse). Safe. -/
  | settleWithoutWrite (tag : Tag)
deriving DecidableEq, Repr

/-- The machine right after reset (R41, R290). `READY` is 0 until the handshake has completed (R68; log 3), and
nothing has been presented at any port (log 1). -/
def State.reset : State where
  seq := 0x00
  busy := false
  lastHeading := 0x0000
  stopq := 0
  inflightG := 0
  inflightU := 0
  txLog := []
  rspLog := []
  diagLog := []
  ready := false
  req := []
  settle := []
  ticks := 0
  schedule := []

end Sys2Proof.Machine
end

