-- ==== Sys2Proof/Machine/Flags.lean ====
section
/-! DEFINITION. The one status flag, `BUSY` (spec/10_state.md R32), and the two sub-steps that write it. -/

namespace Sys2Proof.Machine

/-- `TRYENTER()`, the test-and-set (R161): false and nothing written when the gate is occupied. -/
def tryEnter (s : State) : Bool × State :=
  if s.busy then (false, s) else (true, { s with busy := true })

/-- `LEAVE()`, unconditional (R163). -/
def leave (s : State) : State := { s with busy := false }

end Sys2Proof.Machine
end

