-- ==== Sys2Proof/Config.lean ====
section
/-! DEFINITION. The parameters of spec/00_scope.md R8, each a field with the value the spec states for this hardware. -/

namespace Sys2Proof

/-- The parameter table of R8, in its order. The widths are fixed by the types of Sys2Proof/Word.lean and stand here
as the table gives them; `retryPeriodMs` is recorded and read by nothing, since no rule depends on time (R310). -/
structure Config where
  /-- `BYTE` -/
  byteBits : Nat := 8
  /-- `SEQ_BITS` -/
  seqBits : Nat := 8
  /-- `HEADING_BITS` -/
  headingBits : Nat := 16
  /-- `PAYLOAD_MIN` -/
  payloadMin : Nat := 1
  /-- `PAYLOAD_MAX` -/
  payloadMax : Nat := 254
  /-- `COORD_BITS` -/
  coordBits : Nat := 16
  /-- `RADIUS_BITS` -/
  radiusBits : Nat := 16
  /-- `MAP_HEADING_BITS` -/
  mapHeadingBits : Nat := 16
  /-- `MAP_SPEED_BITS` -/
  mapSpeedBits : Nat := 32
  /-- `STOP_SPEED` -/
  stopSpeed : Byte := 100
  /-- `RETRY_PERIOD`, in milliseconds -/
  retryPeriodMs : Nat := 100
  /-- `STOPQ_MAX` -/
  stopqMax : Nat := 255
  /-- `DEVICE_ID` -/
  deviceId : Byte := 0x02
  /-- `BACKLED_GATED` -/
  backLedGated : Bool := false
  /-- `DIRECT_UNIT_ACCESS` -/
  directUnitAccess : Bool := true
deriving DecidableEq, Repr

/-- This hardware: every parameter at the value of R8's table. -/
def Config.bb8 : Config := {}

end Sys2Proof
end

