-- ==== Sys2Proof/Syntax.lean ====
section
/-! DEFINITION. The eleven operations of the opcode table (spec/30_encoding.md R100), with the operands of R96 and
R97 in the argument order of R110. -/

namespace Sys2Proof

/-- One constructor per row of spec/opcode_table.json. -/
inductive Instr where
  /-- `BUILD did, cid, seq, payload` (R131) -/
  | build (did cid seq : Byte) (payload : List Byte)
  /-- `NEXT` (R151) -/
  | next
  /-- `TRYENTER` (R161) -/
  | tryEnter
  /-- `LEAVE` (R163) -/
  | leave
  /-- `MAP tx, ty, ox, oy, radius, aim` (R221); the coordinates are two's complement patterns (R97) -/
  | map (tx ty ox oy radius : Word16) (aim : Bool)
  /-- `SETHEADING h` (R180) -/
  | setHeading (h : Word16)
  /-- `ROLL h, s, k` (R181) -/
  | roll (h : Word16) (s k : Byte)
  /-- `STOP` (R183) -/
  | stop
  /-- `SETCOLOR r, g, b` (R186) -/
  | setColor (r g b : Byte)
  /-- `SETBACKLED b` (R187) -/
  | setBackLed (b : Byte)
  /-- `JOY tx, ty, ox, oy, radius, aim` (R230) -/
  | joy (tx ty ox oy radius : Word16) (aim : Bool)
deriving DecidableEq, Repr

/-- The request packet formats of R96. -/
inductive Format where
  /-- `[op]` -/
  | Z
  /-- `[op, b]` -/
  | B
  /-- `[op, hH, hL]` -/
  | H
  /-- `[op, r, g, b]` -/
  | C
  /-- `[op, hH, hL, s, k]` -/
  | R
  /-- `[op, aim, tx, ty, ox, oy, rd]`, the last five 16 bits each -/
  | T
  /-- `[op, did, cid, seq, len, p0, …]` -/
  | V
deriving DecidableEq, Repr

/-- The eleven operations without their operands: the rows of R100's table. -/
inductive Operation where
  | build | next | tryEnter | leave | map | setHeading | roll | stop | setColor | setBackLed | joy
deriving DecidableEq, Repr

end Sys2Proof
end

