-- ==== Sys2Proof/WellFormed.lean ====
section
/-! DEFINITION. Which instructions a request packet can carry. The types already bound every operand but the payload
of `BUILD`, whose length is the packet's byte `len` (spec/30_encoding.md R96). -/

namespace Sys2Proof

/-- An instruction that some request packet encodes. Payload lengths 0 and 255 are well formed: such a packet is
legal, and `BUILD` then raises `InvalidPayload` (R97, R106). -/
def Instr.wellFormed : Instr → Bool
  | .build _ _ _ payload => decide (payload.length ≤ 255)
  | .next => true
  | .tryEnter => true
  | .leave => true
  | .map _ _ _ _ _ _ => true
  | .setHeading _ => true
  | .roll _ _ _ => true
  | .stop => true
  | .setColor _ _ _ => true
  | .setBackLed _ => true
  | .joy _ _ _ _ _ _ => true

end Sys2Proof
end

