-- ==== Sys2Proof/Decode.lean ====
section
/-! DEFINITION. The request packet (spec/30_encoding.md): opcode table (R100), decoder (R95 to R97, R105 to R107),
encoder, pseudo-operations (R111, R112), assembly text (R110), and the bytes of a row of spec/opcode_table.json. -/

namespace Sys2Proof

/-! ## The opcode table -/

/-- The rows of R100 in table order. -/
def Operation.all : List Operation :=
  [.build, .next, .tryEnter, .leave, .map, .setHeading, .roll, .stop, .setColor, .setBackLed, .joy]

/-- Byte 0 of the packet; the whole byte is significant (R102: `mask` is 0xFF in every row). -/
def Operation.opcode : Operation → Byte
  | .build => 0x00
  | .next => 0x01
  | .tryEnter => 0x02
  | .leave => 0x03
  | .map => 0x04
  | .setHeading => 0x10
  | .roll => 0x11
  | .stop => 0x12
  | .setColor => 0x13
  | .setBackLed => 0x14
  | .joy => 0x15

/-- The format column of R100. -/
def Operation.format : Operation → Format
  | .build => .V
  | .next => .Z
  | .tryEnter => .Z
  | .leave => .Z
  | .map => .T
  | .setHeading => .H
  | .roll => .R
  | .stop => .Z
  | .setColor => .C
  | .setBackLed => .B
  | .joy => .T

/-- The mnemonic column of R100. -/
def Operation.mnemonic : Operation → String
  | .build => "BUILD"
  | .next => "NEXT"
  | .tryEnter => "TRYENTER"
  | .leave => "LEAVE"
  | .map => "MAP"
  | .setHeading => "SETHEADING"
  | .roll => "ROLL"
  | .stop => "STOP"
  | .setColor => "SETCOLOR"
  | .setBackLed => "SETBACKLED"
  | .joy => "JOY"

/-- The class column of R100: a command, as against a unit operation. -/
def Operation.isCommand : Operation → Bool
  | .build => false
  | .next => false
  | .tryEnter => false
  | .leave => false
  | .map => false
  | .setHeading => true
  | .roll => true
  | .stop => true
  | .setColor => true
  | .setBackLed => true
  | .joy => true

/-- The operations that `DIRECT_UNIT_ACCESS` guards: the state-changing unit operations (R8, R277). -/
def Operation.changesUnitState : Operation → Bool
  | .build => false
  | .next => true
  | .tryEnter => true
  | .leave => true
  | .map => false
  | .setHeading => false
  | .roll => false
  | .stop => false
  | .setColor => false
  | .setBackLed => false
  | .joy => false

/-- Whether the request port reaches an operation (R105, R277). -/
def Operation.reachable (c : Config) (o : Operation) : Bool :=
  c.directUnitAccess || !o.changesUnitState

/-- The operation an opcode byte selects; `none` for a reserved opcode (R105). -/
def Operation.ofOpcode (c : Config) (op : Byte) : Option Operation :=
  Operation.all.find? fun o => o.opcode == op && o.reachable c

/-- The row of R100 an instruction belongs to. -/
def Instr.operation : Instr → Operation
  | .build _ _ _ _ => .build
  | .next => .next
  | .tryEnter => .tryEnter
  | .leave => .leave
  | .map _ _ _ _ _ _ => .map
  | .setHeading _ => .setHeading
  | .roll _ _ _ => .roll
  | .stop => .stop
  | .setColor _ _ _ => .setColor
  | .setBackLed _ => .setBackLed
  | .joy _ _ _ _ _ _ => .joy

/-- The length a format demands of the whole packet; `len` is the packet's byte 4, which only format `V` reads
(R96, R99). -/
def Format.packetLength : Format → Nat → Nat
  | .Z, _ => 1
  | .B, _ => 2
  | .H, _ => 3
  | .C, _ => 4
  | .R, _ => 5
  | .T, _ => 12
  | .V, len => 5 + len

/-! ## Byte order (R69) -/

/-- The 16-bit operand of two packet bytes, high byte first (R97). -/
def word16 (hi lo : Byte) : Word16 := BitVec.ofNat 16 (hi.toNat * 256 + lo.toNat)

/-- `be16`, the big-endian split of a 16-bit value (R10, R98). -/
def be16 (v : Word16) : List Byte := [BitVec.ofNat 8 (v.toNat / 256), BitVec.ofNat 8 (v.toNat % 256)]

/-! ## The decoder -/

/-- Why a packet is illegal. The spec has the one code `IllegalOp` for all four; the names are the model's (log 17). -/
inductive IllegalReason where
  /-- the packet of length 0 (R105) -/
  | emptyPacket
  /-- byte 0 is not an opcode of R100, or not a reachable one (R105, R277) -/
  | reservedOpcode
  /-- the length is not the one the opcode demands (R106) -/
  | wrongLength
  /-- an `aim` byte other than 0x00 and 0x01 (R107) -/
  | reservedAim
deriving DecidableEq, Repr

/-- What the decoder makes of a packet. -/
inductive Decoded where
  | instr (i : Instr)
  | illegal (why : IllegalReason)
deriving DecidableEq, Repr

/-- `aim`: 0x01 is true, 0x00 false, any other byte reserved (R97, R107). -/
def decodeAim (aim : Byte) : Option Bool :=
  if aim = 0x00 then some false else if aim = 0x01 then some true else none

/-- Operand bytes of format `Z`. -/
def decodeZ (i : Instr) : List Byte → Decoded
  | [] => .instr i
  | _ => .illegal .wrongLength

/-- Operand bytes of format `B`. -/
def decodeB (k : Byte → Instr) : List Byte → Decoded
  | [b] => .instr (k b)
  | _ => .illegal .wrongLength

/-- Operand bytes of format `H`. -/
def decodeH (k : Word16 → Instr) : List Byte → Decoded
  | [hH, hL] => .instr (k (word16 hH hL))
  | _ => .illegal .wrongLength

/-- Operand bytes of format `C`. -/
def decodeC (k : Byte → Byte → Byte → Instr) : List Byte → Decoded
  | [r, g, b] => .instr (k r g b)
  | _ => .illegal .wrongLength

/-- Operand bytes of format `R`: heading, speed, rollState. -/
def decodeR (k : Word16 → Byte → Byte → Instr) : List Byte → Decoded
  | [hH, hL, s, r] => .instr (k (word16 hH hL) s r)
  | _ => .illegal .wrongLength

/-- Operand bytes of format `T`: `aim` first, then touch, pad origin and radius. The length is checked before the
`aim` byte. -/
def decodeT (k : Word16 → Word16 → Word16 → Word16 → Word16 → Bool → Instr) : List Byte → Decoded
  | [aim, txH, txL, tyH, tyL, oxH, oxL, oyH, oyL, rdH, rdL] =>
    match decodeAim aim with
    | some a => .instr (k (word16 txH txL) (word16 tyH tyL) (word16 oxH oxL) (word16 oyH oyL) (word16 rdH rdL) a)
    | none => .illegal .reservedAim
  | _ => .illegal .wrongLength

/-- Operand bytes of format `V`: the packet is `5 + len` bytes, `len` its byte 4 (R106). -/
def decodeV (k : Byte → Byte → Byte → List Byte → Instr) : List Byte → Decoded
  | did :: cid :: sq :: len :: payload =>
    if payload.length = len.toNat then .instr (k did cid sq payload) else .illegal .wrongLength
  | _ => .illegal .wrongLength

/-- The operand bytes of each operation, in the format of its row. -/
def decodeOperands : Operation → List Byte → Decoded
  | .build, rest => decodeV .build rest
  | .next, rest => decodeZ .next rest
  | .tryEnter, rest => decodeZ .tryEnter rest
  | .leave, rest => decodeZ .leave rest
  | .map, rest => decodeT .map rest
  | .setHeading, rest => decodeH .setHeading rest
  | .roll, rest => decodeR .roll rest
  | .stop, rest => decodeZ .stop rest
  | .setColor, rest => decodeC .setColor rest
  | .setBackLed, rest => decodeB .setBackLed rest
  | .joy, rest => decodeT .joy rest

/-- The request decoder under a configuration: total on byte sequences (R95, R105 to R107). -/
def decodeWith (c : Config) : List Byte → Decoded
  | [] => .illegal .emptyPacket
  | op :: rest =>
    match Operation.ofOpcode c op with
    | none => .illegal .reservedOpcode
    | some o => decodeOperands o rest

/-- The request decoder of this hardware. -/
def decode (packet : List Byte) : Decoded := decodeWith Config.bb8 packet

/-! ## The encoder -/

/-- The `aim` byte (R97). -/
def encodeAim (aim : Bool) : Byte := if aim then 0x01 else 0x00

/-- The operand bytes of format `T`. -/
def encodeT (tx ty ox oy radius : Word16) (aim : Bool) : List Byte :=
  encodeAim aim :: (be16 tx ++ be16 ty ++ be16 ox ++ be16 oy ++ be16 radius)

/-- The operand bytes of an instruction (R96). -/
def encodeOperands : Instr → List Byte
  | .build did cid sq payload => did :: cid :: sq :: BitVec.ofNat 8 payload.length :: payload
  | .next => []
  | .tryEnter => []
  | .leave => []
  | .map tx ty ox oy radius aim => encodeT tx ty ox oy radius aim
  | .setHeading h => be16 h
  | .roll h s k => be16 h ++ [s, k]
  | .stop => []
  | .setColor r g b => [r, g, b]
  | .setBackLed b => [b]
  | .joy tx ty ox oy radius aim => encodeT tx ty ox oy radius aim

/-- The request packet of an instruction: `[op] ++ operands` (R95). -/
def encode (i : Instr) : List Byte := i.operation.opcode :: encodeOperands i

/-! ## Pseudo-operations and assembly text -/

/-- `AIMON`: exactly these two requests, in this order (R111). -/
def aimOn : List Instr := [.setBackLed 255, .setColor 0 0 0]

/-- `AIMOFF`: exactly these two requests, in this order (R112). -/
def aimOff : List Instr := [.setBackLed 0, .setHeading 0]

/-- Operands as assembly text: separated by commas (R110). -/
def commaSeparated : List String → String
  | [] => ""
  | [x] => x
  | x :: y :: rest => x ++ ", " ++ commaSeparated (y :: rest)

/-- A byte or unsigned word in decimal (R110 allows decimal and hexadecimal; log 19). -/
def asmUnsigned {w : Nat} (v : BitVec w) : String := toString v.toNat

/-- A coordinate in decimal, signed (R97). -/
def asmSigned (v : Word16) : String := toString v.toInt

/-- `aim` as the packet's 0 or 1. -/
def asmAim (aim : Bool) : String := if aim then "1" else "0"

/-- The operands of an instruction in assembly, in the argument order of R110: `aim` is last. -/
def Instr.asmOperands : Instr → List String
  | .build did cid sq payload =>
    [asmUnsigned did, asmUnsigned cid, asmUnsigned sq, "[" ++ commaSeparated (payload.map asmUnsigned) ++ "]"]
  | .next => []
  | .tryEnter => []
  | .leave => []
  | .map tx ty ox oy radius aim =>
    [asmSigned tx, asmSigned ty, asmSigned ox, asmSigned oy, asmUnsigned radius, asmAim aim]
  | .setHeading h => [asmUnsigned h]
  | .roll h s k => [asmUnsigned h, asmUnsigned s, asmUnsigned k]
  | .stop => []
  | .setColor r g b => [asmUnsigned r, asmUnsigned g, asmUnsigned b]
  | .setBackLed b => [asmUnsigned b]
  | .joy tx ty ox oy radius aim =>
    [asmSigned tx, asmSigned ty, asmSigned ox, asmSigned oy, asmUnsigned radius, asmAim aim]

/-- One line of assembly: the mnemonic in capitals, then the operands (R110). -/
def Instr.asm (i : Instr) : String :=
  match i.asmOperands with
  | [] => i.operation.mnemonic
  | operands => i.operation.mnemonic ++ " " ++ commaSeparated operands

/-! ## Rows of spec/opcode_table.json as numbers (log 18) -/

/-- The `n` lowest bytes of a number, least significant first: the table numbers the first byte's bits 7..0, the
second byte's 15..8, and so on. -/
def lowBytes : Nat → Nat → List Byte
  | 0, _ => []
  | n + 1, w => BitVec.ofNat 8 (w % 256) :: lowBytes n (w / 256)

/-- The packet whose first `nbits` bits are those of `w` and whose other bits are 0, as long as the opcode demands
(and at least the bytes given, so that a packet given too long stays too long). -/
def tablePacket (nbits w : Nat) : List Byte :=
  let v := w % 2 ^ nbits
  let demanded :=
    match Operation.ofOpcode Config.bb8 (BitVec.ofNat 8 (v % 256)) with
    | some o => o.format.packetLength (v / 2 ^ 32 % 256)
    | none => 1
  lowBytes (max ((nbits + 7) / 8) demanded) v

/-- The instruction the decoder reads from a row's bits. -/
def decodeTableWord (nbits w : Nat) : Option Instr :=
  match decode (tablePacket nbits w) with
  | .instr i => some i
  | .illegal _ => none

end Sys2Proof
end

