-- ==== Sys2Proof/Machine/Operands.lean ====
section
/-! DEFINITION. Operands of the units: payloads of the commands (spec/30_encoding.md R98, R101), device and command
ids (R101), and the pad-relative coordinates of the mapper (R97, spec/44_motionmapper.md R221). -/

namespace Sys2Proof.Machine

/-- Command id of the set-heading frame. -/
def cidHeading : Byte := 0x01

/-- Command id of the set-colour frame. -/
def cidColor : Byte := 0x20

/-- Command id of the set-back-LED frame. -/
def cidBackLed : Byte := 0x21

/-- Command id of the roll frame, shared by roll, stop and joystick. -/
def cidRoll : Byte := 0x30

/-- `[h >> 8, h & 0xFF]` -/
def headingPayload (h : Word16) : List Byte := be16 h

/-- `[s, h >> 8, h & 0xFF, k]`: the packet's order is `h, s, k` (R181). -/
def rollPayload (h : Word16) (s k : Byte) : List Byte := s :: (be16 h ++ [k])

/-- `[100, LH >> 8, LH & 0xFF, 0]`: a roll at `STOP_SPEED` with rollState 0. -/
def stopPayload (c : Config) (lastHeading : Word16) : List Byte := rollPayload lastHeading c.stopSpeed 0

/-- `[r, g, b, 0]` -/
def colorPayload (r g b : Byte) : List Byte := [r, g, b, 0]

/-- `[b]` -/
def backLedPayload (b : Byte) : List Byte := [b]

/-- `be32`, the 4-byte big-endian form (R221, R104). -/
def be32 (v : Word32) : List Byte :=
  [BitVec.ofNat 8 (v.toNat / 2 ^ 24), BitVec.ofNat 8 (v.toNat / 2 ^ 16 % 256),
    BitVec.ofNat 8 (v.toNat / 2 ^ 8 % 256), BitVec.ofNat 8 (v.toNat % 256)]

/-- One centre-relative coordinate: `(t - o) - radius` on unbounded integers, `t` and `o` signed, `radius` unsigned
(R97, R221 step 1). -/
def centreRelative (t o radius : Word16) : Int := t.toInt - o.toInt - (radius.toNat : Int)

end Sys2Proof.Machine
end

