-- ==== Sys2Proof/Machine/Ops.lean ====
section
/-! DEFINITION. The shared operations: the output ports (spec/20_memory.md R63, R64, R67), raising a fault
(spec/60_exceptions.md R251, R262), the sequence generator's sub-step (spec/41_sequence.md R151), the frame codec
(spec/40_framecodec.md R131), and the dispatcher's common procedures (spec/43_dispatcher.md R176, R178, R184). -/

namespace Sys2Proof.Machine

/-! ## Fault codes and output ports -/

/-- The table of R251. `gateBusy` names the outcome "dropped"; no operation emits its code. -/
inductive FaultCode where
  | ok
  | invalidPayload
  | transportError
  | gateBusy
  | illegalOp
  | invalidGeometry
  | stopOverflow
deriving DecidableEq, Repr

/-- The numeric codes of R251. -/
def FaultCode.code : FaultCode → Byte
  | .ok => 0x00
  | .invalidPayload => 0x01
  | .transportError => 0x02
  | .gateBusy => 0x03
  | .illegalOp => 0x04
  | .invalidGeometry => 0x05
  | .stopOverflow => 0x06

/-- `RSP.put(bytes)` (R63). -/
def rspPut (bytes : List Byte) (s : State) : State := { s with rspLog := s.rspLog ++ [bytes] }

/-- `RSP.put` of a success: byte 0 is `OK` (R104). -/
def respond (result : List Byte) (s : State) : State := rspPut (FaultCode.ok.code :: result) s

/-- `DIAG.put(code)` (R67). -/
def diagPut (f : FaultCode) (s : State) : State := { s with diagLog := s.diagLog ++ [f.code] }

/-- `TX.write(tag, frame)` (R64). -/
def txWrite (tag : Tag) (frame : List Byte) (s : State) : State := { s with txLog := s.txLog ++ [⟨tag, frame⟩] }

/-! ## Taking a fault (R262) -/

/-- Where a raised fault is reported: by R262 always on `DIAG`, and on `RSP` as well for a unit operation or an
illegal packet. -/
inductive Raiser where
  | unitOperation
  | illegalPacket
  | command
deriving DecidableEq, Repr

/-- `raise F`: the operation ends with no register written and nothing sent, and the fault is reported. There is no
handler, nothing is saved, and nothing is to be restored (R263, R264). -/
def raiseFault (raiser : Raiser) (f : FaultCode) (s : State) : State :=
  match raiser with
  | .unitOperation => diagPut f (rspPut [f.code] s)
  | .illegalPacket => diagPut f (rspPut [f.code] s)
  | .command => diagPut f s

/-! ## SequenceGenerator -/

/-- `NEXT()`: the value before the increment, and `SEQ` advanced modulo 256 (R151). -/
def nextSeq (s : State) : Byte × State := (s.seq, { s with seq := s.seq + 1 })

/-! ## FrameCodec -/

/-- `startByte` (R91). -/
def startByte : Byte := 0xFF

/-- Flag bit 0 of the `flags` byte (R92). -/
def flagAnswer : Byte := 0x01

/-- Flag bit 1 of the `flags` byte (R92). -/
def flagResetTimeout : Byte := 0x02

/-- The `flags` byte, a constant (R92). -/
def flagsByte : Byte := 0xFC ||| flagAnswer ||| flagResetTimeout

/-- `Σ s`, on unbounded natural numbers (R9). -/
def byteSum : List Byte → Nat
  | [] => 0
  | b :: rest => b.toNat + byteSum rest

/-- `total` of R131, on unbounded natural numbers. -/
def frameTotal (did cid sq : Byte) (payload : List Byte) : Nat :=
  byteSum payload + did.toNat + cid.toNat + sq.toNat + (payload.length + 1)

/-- `(total & 0xFF) ^ 0xFF` (R132). -/
def checksum (total : Nat) : Byte := BitVec.ofNat 8 ((total &&& 0xFF) ^^^ 0xFF)

/-- `BUILD(did, cid, seq, payload)`: the frame of format W, or `InvalidPayload` when the payload length is outside
`PAYLOAD_MIN` to `PAYLOAD_MAX` (R91, R131, R133). -/
def buildFrame (c : Config) (did cid sq : Byte) (payload : List Byte) : Except FaultCode (List Byte) :=
  if payload.length < c.payloadMin ∨ c.payloadMax < payload.length then
    .error .invalidPayload
  else
    .ok (startByte :: flagsByte :: did :: cid :: sq :: BitVec.ofNat 8 (payload.length + 1) ::
      (payload ++ [checksum (frameTotal did cid sq payload)]))

/-! ## Common procedures of the dispatcher -/

/-- One more write in flight under its tag (R176). -/
def countInFlight (tag : Tag) (s : State) : State :=
  match tag with
  | .G => { s with inflightG := s.inflightG + 1 }
  | .U => { s with inflightU := s.inflightU + 1 }

/-- `DISPATCH(tag, cid, payload)` (R176). `BUILD` cannot fault here, since every command's payload has length 1, 2 or
4 (R177); the other branch reports the fault and writes nothing (log 16). -/
def dispatch (c : Config) (tag : Tag) (cid : Byte) (payload : List Byte) (s : State) : State :=
  match buildFrame c c.deviceId cid (nextSeq s).1 payload with
  | .ok frame => countInFlight tag (txWrite tag frame (nextSeq s).2)
  | .error f => raiseFault .command f s

/-- The drop policy (R178): a command that does not win the gate does nothing. -/
def dropPolicy (admitted : State → State) (s : State) : State :=
  match tryEnter s with
  | (false, _) => s
  | (true, s') => admitted s'

/-- The body of `ROLL h, s, k`, shared by `ROLL` and `JOY`: `LASTHEADING` is written only when admitted, in the
hand-over step (R181, R182). -/
def rollBody (c : Config) (h : Word16) (speed k : Byte) (s : State) : State :=
  dropPolicy (fun t => dispatch c .G cidRoll (rollPayload h speed k) { t with lastHeading := h }) s

/-- `SENDSTOP()`, called only with `BUSY` = 0; `LASTHEADING` is read at this moment (R184). -/
def sendStop (c : Config) (s : State) : State :=
  dispatch c .G cidRoll (stopPayload c s.lastHeading) (tryEnter s).2

/-- A command while `READY` is 0 has no meaning (R68, R296; spec/93_implementation_defined.md U7: refuse). No other
check comes before this one (log 4). -/
def whenReady (command : State → State) (s : State) : Host.Outcome State Fault Refusal :=
  if s.ready then .next (command s) else .refused .commandBeforeReady

end Sys2Proof.Machine
end

