-- ==== Sys2Proof/Machine/CommandDispatcher.lean ====
section
/-! DEFINITION. The commands of CommandDispatcher (spec/43_dispatcher.md). A command puts nothing on `RSP` (R63). -/

namespace Sys2Proof.Machine

/-- `SETHEADING h` (R180): does not write `LASTHEADING`. -/
def execSetHeading (h : Word16) (s : State) : Host.Outcome State Fault Refusal :=
  whenReady (dropPolicy (dispatch Config.bb8 .G cidHeading (headingPayload h))) s

/-- `ROLL h, s, k` (R181). -/
def execRoll (h : Word16) (speed k : Byte) (s : State) : Host.Outcome State Fault Refusal :=
  whenReady (rollBody Config.bb8 h speed k) s

/-- The body of `STOP` (R183, R189): queued while the gate is occupied, sent at once otherwise, even when older stops
wait. -/
def stopBody (c : Config) (s : State) : State :=
  if s.busy then
    if s.stopq = c.stopqMax then diagPut .stopOverflow s
    else { s with stopq := s.stopq + 1 }
  else sendStop c s

/-- `STOP` (R183). -/
def execStop (s : State) : Host.Outcome State Fault Refusal :=
  whenReady (stopBody Config.bb8) s

/-- `SETCOLOR r, g, b` (R186). -/
def execSetColor (r g b : Byte) (s : State) : Host.Outcome State Fault Refusal :=
  whenReady (dropPolicy (dispatch Config.bb8 .G cidColor (colorPayload r g b))) s

/-- The body of `SETBACKLED b`: no gating (R187). With `BACKLED_GATED` it would follow the drop policy with tag `G`
(spec/93_implementation_defined.md U4; false for this hardware, log 13). -/
def backLedBody (c : Config) (b : Byte) (s : State) : State :=
  if c.backLedGated then dropPolicy (dispatch c .G cidBackLed (backLedPayload b)) s
  else dispatch c .U cidBackLed (backLedPayload b) s

/-- `SETBACKLED b` (R187). -/
def execSetBackLed (b : Byte) (s : State) : Host.Outcome State Fault Refusal :=
  whenReady (backLedBody Config.bb8 b) s

end Sys2Proof.Machine
end

