-- ==== Sys2Proof/Machine/CommandGate.lean ====
section
/-! DEFINITION. The unit operations of CommandGate (spec/42_gate.md). -/

namespace Sys2Proof.Machine

/-- `TRYENTER` from the request port (R161, R162): answers 1 when it entered, 0 when the gate was occupied; a false
result is not a fault. -/
def execTryEnter (s : State) : Host.Outcome State Fault Refusal :=
  .next (respond [if (tryEnter s).1 then 0x01 else 0x00] (tryEnter s).2)

/-- `LEAVE` from the request port (R163): touches neither `INFLIGHT_G` nor a waiting stop. -/
def execLeave (s : State) : Host.Outcome State Fault Refusal :=
  .next (respond [] (leave s))

end Sys2Proof.Machine
end

