-- ==== Sys2Proof/Machine/FrameCodec.lean ====
section
/-! DEFINITION. The unit operation of FrameCodec (spec/40_framecodec.md). -/

namespace Sys2Proof.Machine

/-- `BUILD did, cid, seq, payload` from the request port (R131, R133, R134): reads and writes no register. -/
def execBuild (did cid sq : Byte) (payload : List Byte) (s : State) : Host.Outcome State Fault Refusal :=
  match buildFrame Config.bb8 did cid sq payload with
  | .ok frame => .next (respond frame s)
  | .error f => .next (raiseFault .unitOperation f s)

end Sys2Proof.Machine
end

