-- ==== Sys2Proof/Machine/MotionMapper.lean ====
section
/-! DEFINITION. MotionMapper (spec/44_motionmapper.md): the heading and the speed of a touch, exactly as the real
formula of R221 gives them and computed in natural numbers, then `MAP` (R221) and `JOY` (R230).

The angle. A pair `re, im` of naturals with `0 < re` stands for the angle of the point `(re, im)` in `[0°, 90°)`; a
`Turn` adds whole quarter turns. Adding two such angles is multiplying complex numbers, with one quarter turn carried
when the product leaves the first quadrant. So 360 times an angle is computed exactly, and the nearest whole degree of
the angle (R224) is the nearest number of full turns in it (log 14). -/

namespace Sys2Proof.Machine

/-- The angle `quarters · 90° + angle of (re, im)`, with `(re, im)` in the first quadrant. -/
structure Turn where
  quarters : Nat
  re : Nat
  im : Nat
deriving DecidableEq, Repr

/-- The sum of two angles. -/
def Turn.add (u v : Turn) : Turn :=
  if u.im * v.im < u.re * v.re then
    ⟨u.quarters + v.quarters, u.re * v.re - u.im * v.im, u.re * v.im + u.im * v.re⟩
  else
    ⟨u.quarters + v.quarters + 1, u.re * v.im + u.im * v.re, u.im * v.im - u.re * v.re⟩

/-- `n` times an angle. -/
def Turn.times (u : Turn) : Nat → Turn
  | 0 => ⟨0, 1, 0⟩
  | n + 1 => (u.times n).add u

/-- 360 times the angle of the first-quadrant point `(x, y)`; 360 is taken as 8 · 9 · 5. -/
def turn360 (x y : Nat) : Turn := (((Turn.mk 0 x y).times 8).times 9).times 5

/-- The angle of the first-quadrant point `(x, y)` in whole degrees, halves rounded up (R224): the quarter turns in
360 times the angle, to the nearest four. -/
def quadrantDegrees (x y : Nat) : Nat := ((turn360 x y).quarters + 2) / 4

/-- `heading` of R221 step 2: `round((π - atan2(a, b)) · 180 / π)`. The quadrant of `(a, b)` gives a multiple of 90
(up 0, right 90, down 180, left 270; R227), the point turned into the first quadrant the rest. At the centre,
`atan2(0, 0) = 0` gives 180 (R223). -/
def headingOf (a b : Int) : Nat :=
  if a = 0 ∧ b = 0 then 180
  else if 0 ≤ a ∧ b < 0 then quadrantDegrees b.natAbs a.natAbs
  else if 0 < a ∧ 0 ≤ b then 90 + quadrantDegrees a.natAbs b.natAbs
  else if a ≤ 0 ∧ 0 < b then 180 + quadrantDegrees b.natAbs a.natAbs
  else 270 + quadrantDegrees a.natAbs b.natAbs

/-- The greatest `s` below `found + 2 ^ bits` with `s = found` or `((2 s - 1) radius)² ≤ 260100 n`, bit by bit from
the top. -/
def speedSearch (n radius : Nat) : Nat → Nat → Nat
  | 0, found => found
  | bits + 1, found =>
    if ((2 * (found + 2 ^ bits) - 1) * radius) ^ 2 ≤ 260100 * n then
      speedSearch n radius bits (found + 2 ^ bits)
    else
      speedSearch n radius bits found

/-- `speed0` of R221 step 3, by the integer rule R225; `MAP_SPEED_BITS` bits hold it for all operands (R226; log 15). -/
def speedOf (a b : Int) (radius : Nat) : Nat :=
  speedSearch (a.natAbs ^ 2 + b.natAbs ^ 2) radius Config.bb8.mapSpeedBits 0

/-- The result of the mapper, derived per touch and not stored (R220). -/
structure MotionVector where
  heading : Word16
  speed : Word32
deriving DecidableEq, Repr

/-- `MAP(tx, ty, ox, oy, radius, aim)`, steps 1 to 4 (R221, R222): `InvalidGeometry` before anything else; the speed
is not clamped and the heading not normalised (R226). -/
def mapVector (tx ty ox oy radius : Word16) (aim : Bool) : Except FaultCode MotionVector :=
  if radius = 0 then .error .invalidGeometry
  else
    .ok ⟨BitVec.ofNat 16 (headingOf (centreRelative tx ox radius) (centreRelative ty oy radius)),
      if aim then 0
      else BitVec.ofNat 32 (speedOf (centreRelative tx ox radius) (centreRelative ty oy radius) radius.toNat)⟩

/-- The response of `MAP`: heading as 16 bits, then speed as 32 bits (R104). -/
def MotionVector.bytes (v : MotionVector) : List Byte := be16 v.heading ++ be32 v.speed

/-- `min(s, 255)`, the speed byte of the roll inside `JOY` (R231). -/
def saturatedSpeed (v : MotionVector) : Byte := BitVec.ofNat 8 (min v.speed.toNat 255)

/-- `MAP` from the request port (R221): reads and writes no register. -/
def execMap (tx ty ox oy radius : Word16) (aim : Bool) (s : State) : Host.Outcome State Fault Refusal :=
  match mapVector tx ty ox oy radius aim with
  | .ok v => .next (respond v.bytes s)
  | .error f => .next (raiseFault .unitOperation f s)

/-- The body of `JOY` (R230): the geometry is checked before the gate (R276); then `ROLL` with rollState 1, in the same
step. A raised fault goes to `DIAG` only. -/
def joyBody (c : Config) (tx ty ox oy radius : Word16) (aim : Bool) (s : State) : State :=
  match mapVector tx ty ox oy radius aim with
  | .ok v => rollBody c v.heading (saturatedSpeed v) 1 s
  | .error f => raiseFault .command f s

/-- `JOY` (R230). -/
def execJoy (tx ty ox oy radius : Word16) (aim : Bool) (s : State) : Host.Outcome State Fault Refusal :=
  whenReady (joyBody Config.bb8 tx ty ox oy radius aim) s

end Sys2Proof.Machine
end

