-- ==== Sys2Proof/Machine/SequenceGenerator.lean ====
section
/-! DEFINITION. The unit operation of SequenceGenerator (spec/41_sequence.md). -/

namespace Sys2Proof.Machine

/-- `NEXT` from the request port (R151): answers the value before the increment. -/
def execNext (s : State) : Host.Outcome State Fault Refusal :=
  .next (respond [(nextSeq s).1] (nextSeq s).2)

end Sys2Proof.Machine
end

