-- ==== Sys2Proof/Machine/Dispatch.lean ====
section
/-! DEFINITION. The meaning of each operation, one arm per constructor (spec/30_encoding.md R100). -/

namespace Sys2Proof.Machine

def exec (i : Instr) (s : State) : Host.Outcome State Fault Refusal :=
  match i with
  | .build did cid sq payload => Sys2Proof.Machine.execBuild did cid sq payload s
  | .next => Sys2Proof.Machine.execNext s
  | .tryEnter => Sys2Proof.Machine.execTryEnter s
  | .leave => Sys2Proof.Machine.execLeave s
  | .map tx ty ox oy radius aim => Sys2Proof.Machine.execMap tx ty ox oy radius aim s
  | .setHeading h => Sys2Proof.Machine.execSetHeading h s
  | .roll h speed k => Sys2Proof.Machine.execRoll h speed k s
  | .stop => Sys2Proof.Machine.execStop s
  | .setColor r g b => Sys2Proof.Machine.execSetColor r g b s
  | .setBackLed b => Sys2Proof.Machine.execSetBackLed b s
  | .joy tx ty ox oy radius aim => Sys2Proof.Machine.execJoy tx ty ox oy radius aim s

end Sys2Proof.Machine
end

