-- ==== Sys2Proof/Machine/Events.lean ====
section
/-! DEFINITION. The asynchronous events (spec/43_dispatcher.md R185, R190, R191; spec/60_exceptions.md R270, R272) and
the block's reset (spec/70_reset_and_hazards.md R290, R292). -/

namespace Sys2Proof.Machine

/-- `if status = fail then DIAG.put(0x02)` (R190, R191). -/
def reportStatus (status : Status) (s : State) : State :=
  match status with
  | .ok => s
  | .fail => diagPut .transportError s

/-- The settle event. `G` (R190): one write less in flight and `LEAVE()`, on `ok` and `fail` alike. `U` (R191): one
write less, `BUSY` untouched. With nothing in flight under the tag it has no meaning (R270;
spec/93_implementation_defined.md U8: refuse; log 5). -/
def settleEvent (e : SettleEvent) (s : State) : Host.Outcome State Fault Refusal :=
  match e.tag with
  | .G =>
    if s.inflightG = 0 then .refused (.settleWithoutWrite .G)
    else .next (reportStatus e.status (leave { s with inflightG := s.inflightG - 1 }))
  | .U =>
    if s.inflightU = 0 then .refused (.settleWithoutWrite .U)
    else .next (reportStatus e.status { s with inflightU := s.inflightU - 1 })

/-- The retry tick (R185): at most one waiting stop is sent, and only when the gate is free. -/
def tickEvent (c : Config) (s : State) : State :=
  if 0 < s.stopq ∧ s.busy = false then sendStop c { s with stopq := s.stopq - 1 } else s

/-- The reset input (R290): every register at its reset value and the traces empty. What the environment presents at
the ports is not the block's and stays (R292; log 6). -/
def resetEvent (s : State) : State :=
  { State.reset with ready := s.ready, req := s.req, settle := s.settle, ticks := s.ticks, schedule := s.schedule }

end Sys2Proof.Machine
end

