-- ==== Sys2Proof/Machine/Fetch.lean ====
section
/-! DEFINITION. How one input becomes a step (spec/00_scope.md R11): a request packet is decoded and performed, or is
illegal (spec/30_encoding.md R108); a settle event or a tick is handled. -/

namespace Sys2Proof.Machine

/-- One request packet. An illegal one is consumed, changes no register, and is reported (R108). -/
def handlePacket (packet : List Byte) (s : State) : Host.Outcome State Fault Refusal :=
  match decode packet with
  | .instr i => exec i s
  | .illegal _ => .next (raiseFault .illegalPacket .illegalOp s)

/-- The next input of the stream an arrival names becomes the step; streams keep their own order (R62, R275). An
arrival whose stream is empty delivers nothing (log 2). -/
def deliver (a : Arrival) (s : State) : Host.Outcome State Fault Refusal :=
  match a with
  | .request =>
    match s.req with
    | [] => .next s
    | packet :: rest => handlePacket packet { s with req := rest }
  | .settle =>
    match s.settle with
    | [] => .next s
    | e :: rest => settleEvent e { s with settle := rest }
  | .tick =>
    match s.ticks with
    | 0 => .next s
    | n + 1 => .next (tickEvent Config.bb8 { s with ticks := n })
  | .ready level => .next { s with ready := level }
  | .reset => .next (resetEvent s)

/-- The state in which a packet is the very next input: presented first on `REQ`, first in the serialisation, with the
handshake completed (R295, R296; log 7). -/
def presentPacket (packet : List Byte) (s : State) : State :=
  { s with ready := true, req := packet :: s.req, schedule := .request :: s.schedule }

end Sys2Proof.Machine
end

