-- ==== Sys2Proof/Machine/Step.lean ====
section
/-! DEFINITION. One step of the machine (spec/00_scope.md R11) and the state that runs a given packet next. -/

namespace Sys2Proof.Machine

/-- The next arrival of the serialisation is delivered. With none, the block is idle and keeps all its state
(spec/60_exceptions.md R279; log 2). -/
def step (s : State) : Host.Outcome State Fault Refusal :=
  match s.schedule with
  | [] => .next s
  | a :: rest => deliver a { s with schedule := rest }

/-- `s` with the packet of a row of spec/opcode_table.json as its very next input (log 7, log 18). -/
def State.withFetchWord (s : State) (nbits w : Nat) : State := presentPacket (tablePacket nbits w) s

end Sys2Proof.Machine
end

