-- ==== Sys2Proof/Safety.lean ====
section
/-! DEFINITION. The terms claims are stated in: the wire frame as spec/30_encoding.md R91 and spec/40_framecodec.md
R132, R135 give it, what a sent command leaves, the registers, and the conditions that hold of a safe run. -/

namespace Sys2Proof.Machine

/-- Format W (R91) with its checksum as R135(d) gives it, `255 - (total mod 256)`, the total of R132 taken over the
header bytes from `deviceId` on and the payload. Written apart from the codec of Machine/Ops.lean. -/
def wireFrame (did cid sq : Byte) (payload : List Byte) : List Byte :=
  [0xFF, 0xFF, did, cid, sq, BitVec.ofNat 8 (payload.length + 1)] ++ payload ++
    [BitVec.ofNat 8 (255 - ((payload.map BitVec.toNat).sum + did.toNat + cid.toNat + sq.toNat +
      (payload.length + 1)) % 256)]

/-- The high byte of a 16-bit value. -/
def highByte (v : Word16) : Byte := BitVec.ofNat 8 (v.toNat / 256)

/-- The low byte of a 16-bit value. -/
def lowByte (v : Word16) : Byte := BitVec.ofNat 8 (v.toNat % 256)

/-- What an admitted gated command leaves (R176, R178): the gate taken, one sequence number spent, one gated frame
handed over to device 0x02, and nothing else. -/
def gatedSent (cid : Byte) (payload : List Byte) (s : State) : State :=
  { s with
    busy := true
    seq := s.seq + 1
    inflightG := s.inflightG + 1
    txLog := s.txLog ++ [⟨.G, wireFrame 0x02 cid s.seq payload⟩] }

/-- What an ungated command leaves (R176, R187). -/
def ungatedSent (cid : Byte) (payload : List Byte) (s : State) : State :=
  { s with
    seq := s.seq + 1
    inflightU := s.inflightU + 1
    txLog := s.txLog ++ [⟨.U, wireFrame 0x02 cid s.seq payload⟩] }

/-- The frame of a stop replaying a heading (R101). -/
def stopSent (s : State) : State :=
  gatedSent 0x30 [100, highByte s.lastHeading, lowByte s.lastHeading, 0] s

/-- The six registers of R30. -/
structure Registers where
  seq : Byte
  busy : Bool
  lastHeading : Word16
  stopq : Nat
  inflightG : Nat
  inflightU : Nat
deriving DecidableEq, Repr

/-- The registers of a state. -/
def State.registers (s : State) : Registers :=
  ⟨s.seq, s.busy, s.lastHeading, s.stopq, s.inflightG, s.inflightU⟩

/-- The in-flight counter of a tag (R35). -/
def State.inflight (s : State) : Tag → Nat
  | .G => s.inflightG
  | .U => s.inflightU

/-- How many of a list of writes carry a tag. -/
def countTag (tag : Tag) (writes : List TxWrite) : Nat := writes.countP (fun w => w.tag == tag)

/-- A hand-over some command makes (R101): the tag, the ids and the payload length of its row. -/
def IsCommandWrite (w : TxWrite) : Prop :=
  ∃ (sq : Byte) (payload : List Byte),
    (w = ⟨.G, wireFrame 0x02 0x01 sq payload⟩ ∧ payload.length = 2) ∨
    (w = ⟨.G, wireFrame 0x02 0x30 sq payload⟩ ∧ payload.length = 4) ∨
    (w = ⟨.G, wireFrame 0x02 0x20 sq payload⟩ ∧ payload.length = 4) ∨
    (w = ⟨.U, wireFrame 0x02 0x21 sq payload⟩ ∧ payload.length = 1)

/-- A diagnostic byte that is ever emitted: a code of R251 other than `OK` and `GateBusy`. -/
def IsDiagCode (d : Byte) : Prop := d = 0x01 ∨ d = 0x02 ∨ d = 0x04 ∨ d = 0x05 ∨ d = 0x06

/-- A response in one of the forms of R104's table: the success forms of `LEAVE`, of `NEXT` and `TRYENTER`, of `MAP` and
of `BUILD`, or one fault code and no further bytes. -/
def IsResponse (r : List Byte) : Prop :=
  r = [0x00] ∨ (∃ value, r = [0x00, value]) ∨ (∃ result, result.length = 6 ∧ r = 0x00 :: result) ∨
    (∃ (did cid sq : Byte) (payload : List Byte), 1 ≤ payload.length ∧ payload.length ≤ 254 ∧
      r = 0x00 :: wireFrame did cid sq payload) ∨
    r = [0x01] ∨ r = [0x04] ∨ r = [0x05]

/-- What every run keeps, whatever the host issues: `STOPQ` in range (R34), legal traces (R101, R104, R251), and no
more writes in flight than were handed over (R35). -/
structure TracesLegal (s : State) : Prop where
  stopq_range : s.stopq ≤ 255
  writes : ∀ w ∈ s.txLog, IsCommandWrite w
  responses : ∀ r ∈ s.rspLog, IsResponse r
  diagnostics : ∀ d ∈ s.diagLog, IsDiagCode d
  inflight_le : ∀ tag, s.inflight tag ≤ countTag tag s.txLog

/-- The host issues no `NEXT`, `TRYENTER` or `LEAVE` among the packets it has presented (R40). -/
def CommandsOnly (s : State) : Prop :=
  ∀ p ∈ s.req, ∀ i, decode p = .instr i → i.operation.changesUnitState = false

/-- R40 (a) to (d). -/
structure SingleFlight (s : State) : Prop where
  at_most_one : s.inflightG ≤ 1
  busy_iff : s.busy = true ↔ s.inflightG = 1
  seq_counts : s.seq = BitVec.ofNat 8 s.txLog.length
  seq_bytes : ∀ k w, s.txLog[k]? = some w → w.frame[4]? = some (BitVec.ofNat 8 k)

/-- A state in which no further step is owed (R297). -/
def Quiescent (s : State) : Prop := s.inflightG = 0 ∧ s.inflightU = 0 ∧ s.stopq = 0

/-- `k` steps of the machine, stopping at the first refusal. -/
def run (k : Nat) (s : State) : Host.Outcome State Fault Refusal := Host.Core.run Sys2Proof.core k s

end Sys2Proof.Machine
end

