-- ==== Sys2Proof/Certificates/Slice0/Obligations.lean ====
section
/-! DEFINITION. The statements for the provers. Each docstring names the rule of spec/ it formalises; a docstring that
names a log entry rests on the model's own choice. Every statement about `step` takes which input comes next from
`State.schedule`, the model's form of R275 (log 1). -/

open Sys2Proof Sys2Proof.Machine Host

/-! ## Encoding -/

/-- R95, R96, R97: no bit of a request packet's encoding is dropped. -/
def Obligations.DecodeOfEncode : Prop :=
  ∀ i : Instr, i.wellFormed = true → decode (encode i) = .instr i

/-- R95, R96, R105 to R107: a legal packet has one spelling, so the encoder gives back every packet the decoder
accepts, and what it accepts is well formed. -/
def Obligations.EncodeOfDecode : Prop :=
  ∀ (p : List Byte) (i : Instr), decode p = .instr i → i.wellFormed = true ∧ encode i = p

/-- spec/95_test_vectors.md: packets written out there, one for each format, stand for the operations named there. -/
def Obligations.SpecPacketsDecode : Prop :=
  decode [0x00, 0x02, 0x20, 0x00, 0x04, 0x00, 0xFA, 0x00, 0x00] = .instr (.build 0x02 0x20 0 [0, 250, 0, 0]) ∧
  decode [0x01] = .instr .next ∧
  decode [0x04, 0x00, 0xFF, 0xF6, 0xFF, 0xF6, 0xFF, 0xEC, 0xFF, 0xEC, 0x00, 0x0A] =
    .instr (.map (-10) (-10) (-20) (-20) 10 false) ∧
  decode [0x10, 0x01, 0x23] = .instr (.setHeading 291) ∧
  decode [0x11, 0x00, 0x5A, 0x80, 0x01] = .instr (.roll 90 128 1) ∧
  decode [0x13, 0x00, 0xFA, 0x00] = .instr (.setColor 0 250 0) ∧
  decode [0x14, 0xFF] = .instr (.setBackLed 255) ∧
  decode [0x15, 0x01, 0x01, 0x2C, 0x00, 0x96, 0x00, 0x00, 0x00, 0x00, 0x00, 0x96] =
    .instr (.joy 300 150 0 0 150 true)

/-- R105 to R107, for both settings of `DIRECT_UNIT_ACCESS`: exactly these packets are legal. -/
def Obligations.LegalPackets : Prop :=
  ∀ (c : Config) (p : List Byte), (∃ i, decodeWith c p = .instr i) ↔
    ∃ op rest, p = op :: rest ∧
      ((op = 0x00 ∧ ∃ did cid sq len payload, rest = did :: cid :: sq :: len :: payload ∧
          payload.length = BitVec.toNat len) ∨
        ((op = 0x01 ∨ op = 0x02 ∨ op = 0x03) ∧ c.directUnitAccess = true ∧ rest.length = 0) ∨
        (op = 0x12 ∧ rest.length = 0) ∨
        (op = 0x14 ∧ rest.length = 1) ∨
        (op = 0x10 ∧ rest.length = 2) ∨
        (op = 0x13 ∧ rest.length = 3) ∨
        (op = 0x11 ∧ rest.length = 4) ∨
        ((op = 0x04 ∨ op = 0x15) ∧ rest.length = 11 ∧ (rest[0]? = some 0x00 ∨ rest[0]? = some 0x01)))

/-- R108: the whole effect of an illegal packet. -/
def Obligations.IllegalPacketOnlyReported : Prop :=
  ∀ (s : State) (sch : List Arrival) (p : List Byte) (rest : List (List Byte)) (why : IllegalReason),
    s.schedule = .request :: sch → s.req = p :: rest → decode p = .illegal why →
      step s = .next { s with
        schedule := sch, req := rest, rspLog := s.rspLog ++ [[0x04]], diagLog := s.diagLog ++ [0x04] }

/-- R105, R277: with `DIRECT_UNIT_ACCESS` false, opcodes 0x01 to 0x03 are reserved and every other packet decodes as
before. -/
def Obligations.DirectUnitAccessClosed : Prop :=
  ∀ (c : Config) (op : Byte) (rest : List Byte), c.directUnitAccess = false →
    decodeWith c (op :: rest) =
      if op = 0x01 ∨ op = 0x02 ∨ op = 0x03 then .illegal .reservedOpcode else decode (op :: rest)

/-- R11, R62: when a request is next and its packet decodes to `i`, the step is the meaning of `i` at the state in which
that packet and that turn have been consumed. -/
def Obligations.StepRunsDecoded : Prop :=
  ∀ (s : State) (sch : List Arrival) (p : List Byte) (rest : List (List Byte)) (i : Instr),
    s.schedule = .request :: sch → s.req = p :: rest → decode p = .instr i →
      step s = exec i { s with schedule := sch, req := rest }

/-- R111, R112: the packets of the two pseudo-operations, and what their two requests do when `READY` is 1: the first
always sends a frame, the second only if the gate is free when it arrives. -/
def Obligations.AimPseudoOperations : Prop :=
  aimOn.map encode = [[0x14, 0xFF], [0x13, 0x00, 0x00, 0x00]] ∧
  aimOff.map encode = [[0x14, 0x00], [0x10, 0x00, 0x00]] ∧
  ∀ s : State, s.ready = true →
    exec (.setBackLed 255) s = .next (ungatedSent 0x21 [0xFF] s) ∧
    exec (.setBackLed 0) s = .next (ungatedSent 0x21 [0x00] s) ∧
    exec (.setColor 0 0 0) s = .next (if s.busy then s else gatedSent 0x20 [0, 0, 0, 0] s) ∧
    exec (.setHeading 0) s = .next (if s.busy then s else gatedSent 0x01 [0, 0] s)

/-! ## FrameCodec -/

/-- R131, R133: the packet of `BUILD` and its whole effect, a response and nothing else (and on a refused payload the
fault code on `RSP` and `DIAG`). -/
def Obligations.BuildResult : Prop :=
  (∀ (did cid sq : Byte) (payload : List Byte), payload.length ≤ 255 →
    decode (0x00 :: did :: cid :: sq :: BitVec.ofNat 8 payload.length :: payload) =
      .instr (.build did cid sq payload)) ∧
  ∀ (did cid sq : Byte) (payload : List Byte) (s : State),
    exec (.build did cid sq payload) s = .next (
      if 1 ≤ payload.length ∧ payload.length ≤ 254 then
        { s with rspLog := s.rspLog ++ [0x00 :: wireFrame did cid sq payload] }
      else { s with rspLog := s.rspLog ++ [[0x01]], diagLog := s.diagLog ++ [0x01] })

/-- R91, R93, R135(d): every frame the codec builds has the fixed first bytes, a length byte from which its length is
read, and passes the receiver's check. -/
def Obligations.FramesPassReceiverCheck : Prop :=
  ∀ (did cid sq : Byte) (payload f : List Byte), buildFrame Config.bb8 did cid sq payload = .ok f →
    f.take 5 = [0xFF, 0xFF, did, cid, sq] ∧ (f.drop 6).take payload.length = payload ∧
    (∃ d, f[5]? = some d ∧ BitVec.toNat d = payload.length + 1 ∧ f.length = BitVec.toNat d + 6) ∧
    ((f.drop 2).map BitVec.toNat).sum % 256 = 255

/-! ## SequenceGenerator -/

/-- R151: the packet of `NEXT`, the value before the increment as the response, and `SEQ` advanced modulo 256. -/
def Obligations.NextResult : Prop :=
  decode [0x01] = .instr .next ∧
  ∀ s : State, exec .next s =
    .next { s with seq := BitVec.ofNat 8 ((s.seq.toNat + 1) % 256), rspLog := s.rspLog ++ [[0x00, s.seq]] }

/-- R152: from `SEQ` = 0, `k` requests of `NEXT` answer `0, 1, …` modulo 256, for every `k`. -/
def Obligations.NextWraparound : Prop :=
  ∀ (k : Nat) (s : State), s.seq = 0 → s.schedule = List.replicate k .request → s.req = List.replicate k [0x01] →
    ∃ t, run k s = .next t ∧ t.rspLog = s.rspLog ++ (List.range k).map (fun j => [0x00, BitVec.ofNat 8 (j % 256)])

/-- R153: `SEQ` advances once per frame sent and once per direct `NEXT`, and by nothing else; the frame carries the
value before the advance. Settle events send nothing and leave `SEQ` alone. The last clause says the same of a step
whatever its input is, a change of `READY` (log 3) and an idle turn (log 2) among them; only reset writes `SEQ` otherwise
(R290). -/
def Obligations.SequenceAdvancesPerFrame : Prop :=
  (∀ (i : Instr) (s t : State), exec i s = .next t →
    ∃ sent, t.txLog = s.txLog ++ sent ∧ sent.length ≤ 1 ∧ (∀ w ∈ sent, w.frame[4]? = some s.seq) ∧
      t.seq = s.seq + BitVec.ofNat 8 (sent.length + if i = .next then 1 else 0)) ∧
  (∀ s : State, ∃ sent, (tickEvent Config.bb8 s).txLog = s.txLog ++ sent ∧ sent.length ≤ 1 ∧
    (∀ w ∈ sent, w.frame[4]? = some s.seq) ∧ (tickEvent Config.bb8 s).seq = s.seq + BitVec.ofNat 8 sent.length) ∧
  (∀ (e : SettleEvent) (s t : State), settleEvent e s = .next t → t.txLog = s.txLog ∧ t.seq = s.seq) ∧
  (∀ (s t : State) (sch : List Arrival) (p : List Byte) (rest : List (List Byte)) (why : IllegalReason),
    s.schedule = .request :: sch → s.req = p :: rest → decode p = .illegal why → step s = .next t →
      t.txLog = s.txLog ∧ t.seq = s.seq) ∧
  ∀ s t : State, step s = .next t →
    (s.schedule.head? = some .reset ∧ t.seq = 0) ∨
    ∃ sent, t.txLog = s.txLog ++ sent ∧ sent.length ≤ 1 ∧ (∀ w ∈ sent, w.frame[4]? = some s.seq) ∧
      t.seq = s.seq + BitVec.ofNat 8 (sent.length +
        if s.schedule.head? = some .request ∧ s.req.head? = some [0x01] then 1 else 0)

/-! ## CommandGate -/

/-- R161: the packet of `TRYENTER`, and its atomic test-and-set of `BUSY`. -/
def Obligations.TryEnterResult : Prop :=
  decode [0x02] = .instr .tryEnter ∧
  (∀ s : State, s.busy = true → exec .tryEnter s = .next { s with rspLog := s.rspLog ++ [[0x00, 0x00]] }) ∧
  ∀ s : State, s.busy = false →
    exec .tryEnter s = .next { s with busy := true, rspLog := s.rspLog ++ [[0x00, 0x01]] }

/-- R163: the packet of `LEAVE`; it clears `BUSY` unconditionally and touches nothing else. -/
def Obligations.LeaveResult : Prop :=
  decode [0x03] = .instr .leave ∧
  ∀ s : State, exec .leave s = .next { s with busy := false, rspLog := s.rspLog ++ [[0x00]] }

/-- R32: `BUSY` is set only by `TRYENTER` (a direct one, that of a gated command, or that of a retry tick) and cleared
only by `LEAVE` (a direct one or that of a gated settle event) and by reset. -/
def Obligations.BusyWriters : Prop :=
  ∀ (s t : State), step s = .next t →
    (s.busy = true → t.busy = false →
      s.schedule.head? = some .reset ∨
      (s.schedule.head? = some .settle ∧ ∃ e, s.settle.head? = some e ∧ e.tag = .G) ∨
      (s.schedule.head? = some .request ∧ ∃ p, s.req.head? = some p ∧ decode p = .instr .leave)) ∧
    (s.busy = false → t.busy = true →
      (s.schedule.head? = some .tick ∧ 0 < s.stopq) ∨
      (s.schedule.head? = some .request ∧ ∃ p i, s.req.head? = some p ∧ decode p = .instr i ∧
        (i.operation = .tryEnter ∨ i.operation = .setHeading ∨ i.operation = .roll ∨ i.operation = .stop ∨
          i.operation = .setColor ∨ i.operation = .joy)))

/-- R166: once the gate is taken, and while no `LEAVE` packet, no gated settle event and no reset comes, it stays
taken over any number of steps, and every `TRYENTER` answers false and changes nothing but the response trace. -/
def Obligations.GateHeldUntilLeave : Prop :=
  ∀ (k : Nat) (s t : State), s.busy = true → (∀ p ∈ s.req, decode p ≠ .instr .leave) →
    (∀ e ∈ s.settle, e.tag = .U) → .reset ∉ s.schedule → run k s = .next t →
      t.busy = true ∧ exec .tryEnter t = .next { t with rspLog := t.rspLog ++ [[0x00, 0x00]] }

/-! ## CommandDispatcher -/

/-- R180: packet, frame, state written when admitted, and nothing when dropped. `LASTHEADING` is not written. -/
def Obligations.SetHeadingResult : Prop :=
  (∀ h : Word16, decode [0x10, highByte h, lowByte h] = .instr (.setHeading h)) ∧
  ∀ (h : Word16) (s : State), s.ready = true →
    exec (.setHeading h) s = .next (if s.busy then s else gatedSent 0x01 [highByte h, lowByte h] s)

/-- R181, R182: packet order `h, s, k`, payload order `s, h, k`; `LASTHEADING` is recorded when admitted and only
then. (R182 is the spec's decision where its source is unclear: log 8.) -/
def Obligations.RollResult : Prop :=
  (∀ (h : Word16) (sp k : Byte), decode [0x11, highByte h, lowByte h, sp, k] = .instr (.roll h sp k)) ∧
  ∀ (h : Word16) (sp k : Byte) (s : State), s.ready = true →
    exec (.roll h sp k) s = .next (
      if s.busy then s
      else { gatedSent 0x30 [sp, highByte h, lowByte h, k] s with lastHeading := h })

/-- R183, R184, R189: a stop goes out at once when the gate is free, even if older stops wait; otherwise it is queued,
or lost with `StopOverflow` when 255 already wait. -/
def Obligations.StopResult : Prop :=
  decode [0x12] = .instr .stop ∧
  ∀ s : State, s.ready = true →
    exec .stop s = .next (
      if s.busy then
        if s.stopq = 255 then { s with diagLog := s.diagLog ++ [0x06] } else { s with stopq := s.stopq + 1 }
      else stopSent s)

/-- R186 -/
def Obligations.SetColorResult : Prop :=
  (∀ r g b : Byte, decode [0x13, r, g, b] = .instr (.setColor r g b)) ∧
  ∀ (r g b : Byte) (s : State), s.ready = true →
    exec (.setColor r g b) s = .next (if s.busy then s else gatedSent 0x20 [r, g, b, 0] s)

/-- R187: always sent, whatever `BUSY` is, and `BUSY` is left as it was. -/
def Obligations.SetBackLedResult : Prop :=
  (∀ b : Byte, decode [0x14, b] = .instr (.setBackLed b)) ∧
  ∀ (b : Byte) (s : State), s.ready = true → exec (.setBackLed b) s = .next (ungatedSent 0x21 [b] s)

/-- R178: a request that finds the gate occupied and follows the drop policy changes nothing at all; only the packet is
consumed. -/
def Obligations.DroppedRequestDoesNothing : Prop :=
  ∀ (s : State) (sch : List Arrival) (p : List Byte) (rest : List (List Byte)) (i : Instr),
    s.schedule = .request :: sch → s.req = p :: rest → decode p = .instr i → s.ready = true → s.busy = true →
    ((∃ h, i = .setHeading h) ∨ (∃ h sp k, i = .roll h sp k) ∨ (∃ r g b, i = .setColor r g b) ∨
      ∃ tx ty ox oy radius aim, i = .joy tx ty ox oy radius aim ∧ radius ≠ 0) →
      step s = .next { s with schedule := sch, req := rest }

/-- R68, R296 and spec/93_implementation_defined.md U7: a command while `READY` is 0 is refused by name, before every
other check (log 4). -/
def Obligations.CommandsNeedReady : Prop :=
  ∀ (i : Instr) (s : State), i.operation.isCommand = true → s.ready = false →
    exec i s = .refused .commandBeforeReady

/-- R63: a unit operation puts exactly one response on `RSP`, a command none, an illegal packet `[0x04]`. -/
def Obligations.ResponsesPerOperation : Prop :=
  (∀ (i : Instr) (s t : State), exec i s = .next t → i.operation.isCommand = false →
    ∃ r, t.rspLog = s.rspLog ++ [r]) ∧
  (∀ (i : Instr) (s t : State), exec i s = .next t → i.operation.isCommand = true → t.rspLog = s.rspLog) ∧
  ∀ (p : List Byte) (s : State) (why : IllegalReason), decode p = .illegal why →
    ∃ t, handlePacket p s = .next t ∧ t.rspLog = s.rspLog ++ [[0x04]]

/-- R33: `LASTHEADING` changes only by an admitted `ROLL` or `JOY`, to its heading, and by reset. -/
def Obligations.LastHeadingWriters : Prop :=
  ∀ (s t : State), step s = .next t → t.lastHeading ≠ s.lastHeading →
    s.schedule.head? = some .reset ∨
    (s.schedule.head? = some .request ∧ s.busy = false ∧ ∃ p, s.req.head? = some p ∧
      ((∃ sp k, decode p = .instr (.roll t.lastHeading sp k)) ∨
        ∃ tx ty ox oy radius aim v, decode p = .instr (.joy tx ty ox oy radius aim) ∧
          mapVector tx ty ox oy radius aim = .ok v ∧ t.lastHeading = v.heading))

/-- R34: `STOPQ` changes only by a `STOP` that finds the gate occupied (up by one), by a retry tick that finds it free
and sends the frame (down by one), and by reset. -/
def Obligations.StopqWriters : Prop :=
  ∀ (s t : State), step s = .next t → t.stopq ≠ s.stopq →
    s.schedule.head? = some .reset ∨
    (s.schedule.head? = some .request ∧ s.busy = true ∧ s.req.head? = some [0x12] ∧ t.stopq = s.stopq + 1) ∨
    (s.schedule.head? = some .tick ∧ s.busy = false ∧ t.stopq + 1 = s.stopq ∧ t.txLog = (stopSent s).txLog)

/-- R262: an operation that reports a fault changes no register and sends nothing; the code goes to `DIAG`, and to `RSP`
as well when it is a unit operation. The same for an illegal packet. -/
def Obligations.FaultsChangeNoRegister : Prop :=
  (∀ (i : Instr) (s t : State), exec i s = .next t → t.diagLog ≠ s.diagLog →
    t.registers = s.registers ∧ t.txLog = s.txLog ∧ ∃ code, t.diagLog = s.diagLog ++ [code] ∧
      t.rspLog = s.rspLog ++ (if i.operation.isCommand then [] else [[code]])) ∧
  ∀ (p : List Byte) (s : State) (why : IllegalReason), decode p = .illegal why →
    handlePacket p s = .next { s with rspLog := s.rspLog ++ [[0x04]], diagLog := s.diagLog ++ [0x04] }

/-- R72, R276, R291: a step that is not a reset takes nothing off any trace and adds at most one frame, at most one
response and at most one fault code. -/
def Obligations.StepOutputsAtMostOne : Prop :=
  ∀ (s t : State), step s = .next t → s.schedule.head? ≠ some .reset →
    ∃ sent answered reported, t.txLog = s.txLog ++ sent ∧ t.rspLog = s.rspLog ++ answered ∧
      t.diagLog = s.diagLog ++ reported ∧ sent.length ≤ 1 ∧ answered.length ≤ 1 ∧ reported.length ≤ 1

/-- R177: no command raises `InvalidPayload`. -/
def Obligations.NoCommandRaisesInvalidPayload : Prop :=
  ∀ (i : Instr) (s t : State), i.operation.isCommand = true → exec i s = .next t →
    ∃ reported, t.diagLog = s.diagLog ++ reported ∧ 0x01 ∉ reported

/-! ## Events -/

/-- R185, R184: a retry tick sends one waiting stop when the gate is free, with the heading held at that moment, and
does nothing otherwise. -/
def Obligations.TickResult : Prop :=
  ∀ (s : State) (sch : List Arrival) (n : Nat), s.schedule = .tick :: sch → s.ticks = n + 1 →
    step s = .next (
      let u : State := { s with schedule := sch, ticks := n }
      if 0 < s.stopq ∧ s.busy = false then stopSent { u with stopq := s.stopq - 1 } else u)

/-- R190: the settle of a gated write, on `ok` and on `fail`. -/
def Obligations.GatedSettleResult : Prop :=
  ∀ (s : State) (sch : List Arrival) (status : Status) (rest : List SettleEvent),
    s.schedule = .settle :: sch → s.settle = ⟨.G, status⟩ :: rest → 0 < s.inflightG →
      step s = .next { s with
        schedule := sch
        settle := rest
        inflightG := s.inflightG - 1
        busy := false
        diagLog := s.diagLog ++ (if status = .fail then [0x02] else []) }

/-- R191: the settle of an ungated write; `BUSY` is untouched. -/
def Obligations.UngatedSettleResult : Prop :=
  ∀ (s : State) (sch : List Arrival) (status : Status) (rest : List SettleEvent),
    s.schedule = .settle :: sch → s.settle = ⟨.U, status⟩ :: rest → 0 < s.inflightU →
      step s = .next { s with
        schedule := sch
        settle := rest
        inflightU := s.inflightU - 1
        diagLog := s.diagLog ++ (if status = .fail then [0x02] else []) }

/-- R35, R176, R190, R191: the in-flight counter of each tag goes up by the frames handed over under it, and down by
one for a settle event of that tag. -/
def Obligations.InFlightCountsWrites : Prop :=
  (∀ (i : Instr) (s t : State) (tag : Tag), exec i s = .next t →
    ∃ sent, t.txLog = s.txLog ++ sent ∧ t.inflight tag = s.inflight tag + countTag tag sent) ∧
  (∀ (s : State) (tag : Tag), ∃ sent, (tickEvent Config.bb8 s).txLog = s.txLog ++ sent ∧
    (tickEvent Config.bb8 s).inflight tag = s.inflight tag + countTag tag sent) ∧
  ∀ (e : SettleEvent) (s t : State) (tag : Tag), settleEvent e s = .next t →
    t.txLog = s.txLog ∧ t.inflight tag + (if e.tag = tag then 1 else 0) = s.inflight tag

/-- The source's stop retry property (R183 to R185, R190): a stop that finds the gate occupied by a write in flight
sends nothing at once, and exactly one frame, with the recorded heading, at the first tick after that write settles,
whether it settled well or not. -/
def Obligations.QueuedStopIsSentAfterSettle : Prop :=
  ∀ (s : State) (status : Status) (rest : List (List Byte)) (sch : List Arrival) (settles : List SettleEvent),
    s.ready = true → s.busy = true → 0 < s.inflightG → s.stopq < 255 → s.req = [0x12] :: rest →
    s.settle = ⟨.G, status⟩ :: settles → 0 < s.ticks → s.schedule = .request :: .settle :: .tick :: sch →
      ∃ u v t, run 1 s = .next u ∧ u.txLog = s.txLog ∧ run 2 s = .next v ∧ v.txLog = s.txLog ∧
        run 3 s = .next t ∧ t.txLog = (stopSent s).txLog ∧ t.stopq = s.stopq ∧ t.lastHeading = s.lastHeading

/-- R184: a waiting stop carries the heading held when it is sent, not when it was requested: a roll admitted in between
is seen, and it overtakes the stop. -/
def Obligations.WaitingStopSeesLaterRoll : Prop :=
  ∀ (s : State) (h : Word16) (sp k : Byte) (status status' : Status) (rest : List (List Byte)) (sch : List Arrival)
    (settles : List SettleEvent),
    s.ready = true → s.busy = true → s.inflightG = 1 → s.stopq < 255 →
    s.req = [0x12] :: [0x11, highByte h, lowByte h, sp, k] :: rest →
    s.settle = ⟨.G, status⟩ :: ⟨.G, status'⟩ :: settles → 0 < s.ticks →
    s.schedule = .request :: .settle :: .request :: .settle :: .tick :: sch →
      ∃ t, run 5 s = .next t ∧ t.stopq = s.stopq ∧
        t.txLog = s.txLog ++
          [⟨.G, wireFrame 0x02 0x30 s.seq [sp, highByte h, lowByte h, k]⟩,
            ⟨.G, wireFrame 0x02 0x30 (s.seq + 1) [100, highByte h, lowByte h, 0]⟩]

/-! ## MotionMapper -/

/-- R223, R224: the heading is the real angle `π - atan2(a, b)` in degrees, rounded half up, for all integers. `atan2`
of ordinate `a` and abscissa `b` is the argument of `b + a i`, in `(-π, π]`, 0 at the origin. -/
def Obligations.HeadingIsRoundedArctangent : Prop :=
  ∀ a b : Int, (headingOf a b : Int) = ⌊(Real.pi - Complex.arg ⟨(b : ℝ), (a : ℝ)⟩) * 180 / Real.pi + 1 / 2⌋

/-- R225: the speed is the real value rounded half up, and the greatest natural number of the rule's integer
condition, for all operands with a radius of at least 1. -/
def Obligations.SpeedIsRoundedAndGreatest : Prop :=
  ∀ tx ty ox oy radius : Word16, radius ≠ 0 →
    let a := centreRelative tx ox radius
    let b := centreRelative ty oy radius
    let n : Nat := (a * a + b * b).toNat
    (speedOf a b radius.toNat : Int) = ⌊255 * Real.sqrt (n : ℝ) / (radius.toNat : ℝ) + 1 / 2⌋ ∧
    IsGreatest {s : Nat | s = 0 ∨ ((2 * s - 1) * radius.toNat) ^ 2 ≤ 260100 * n} (speedOf a b radius.toNat)

/-- R221, R222: the packet of `MAP`, `InvalidGeometry` when the radius is 0, and otherwise the response of the real
formula: heading as 16 bits and speed as 32 bits, big-endian. Nothing else changes. -/
def Obligations.MapResult : Prop :=
  (∀ (tx ty ox oy radius : Word16) (aim : Bool),
    decode [0x04, if aim then 0x01 else 0x00, highByte tx, lowByte tx, highByte ty, lowByte ty, highByte ox, lowByte ox,
      highByte oy, lowByte oy, highByte radius, lowByte radius] = .instr (.map tx ty ox oy radius aim)) ∧
  (∀ (tx ty ox oy : Word16) (aim : Bool) (s : State), exec (.map tx ty ox oy 0 aim) s =
    .next { s with rspLog := s.rspLog ++ [[0x05]], diagLog := s.diagLog ++ [0x05] }) ∧
  ∀ (tx ty ox oy radius : Word16) (aim : Bool) (s : State), radius ≠ 0 →
    let a : Int := tx.toInt - ox.toInt - radius.toNat
    let b : Int := ty.toInt - oy.toInt - radius.toNat
    let heading : Int := ⌊(Real.pi - Complex.arg ⟨(b : ℝ), (a : ℝ)⟩) * 180 / Real.pi + 1 / 2⌋
    let speed : Int :=
      if aim then 0 else ⌊Real.sqrt ((a : ℝ) * a + (b : ℝ) * b) / (radius.toNat : ℝ) * 255 + 1 / 2⌋
    0 ≤ heading ∧ heading < 2 ^ 16 ∧ 0 ≤ speed ∧ speed < 2 ^ 32 ∧
      exec (.map tx ty ox oy radius aim) s = .next { s with rspLog := s.rspLog ++
        [[0x00, BitVec.ofInt 8 (heading / 256), BitVec.ofInt 8 (heading % 256), BitVec.ofInt 8 (speed / 2 ^ 24),
          BitVec.ofInt 8 (speed / 2 ^ 16 % 256), BitVec.ofInt 8 (speed / 2 ^ 8 % 256),
          BitVec.ofInt 8 (speed % 256)]] }

/-- R227: the eight directions, and the heading depends only on the direction. -/
def Obligations.HeadingCompass : Prop :=
  (∀ c : Int, 0 < c →
    headingOf 0 (-c) = 0 ∧ headingOf c (-c) = 45 ∧ headingOf c 0 = 90 ∧ headingOf c c = 135 ∧ headingOf 0 c = 180 ∧
      headingOf (-c) c = 225 ∧ headingOf (-c) 0 = 270 ∧ headingOf (-c) (-c) = 315) ∧
  ∀ a b c : Int, 1 ≤ c → headingOf (c * a) (c * b) = headingOf a b

/-- R226: headings run from 0 to 360; 360 is reached exactly above and to the left of the centre within half a degree
of straight up. Speeds of all operands are at most 23 633 885, and that value is reached. -/
def Obligations.MapResultRanges : Prop :=
  (∀ a b : Int, headingOf a b ≤ 360) ∧
  (∀ a b : Int, headingOf a b = 360 ↔ a < 0 ∧ b < 0 ∧ |(a : ℝ)| / |(b : ℝ)| ≤ Real.tan (Real.pi / 360)) ∧
  (∀ tx ty ox oy radius : Word16, radius ≠ 0 →
    speedOf (centreRelative tx ox radius) (centreRelative ty oy radius) radius.toNat ≤ 23633885) ∧
  speedOf (-65536) (-65536) 1 = 23633885

/-- R228: the widths of the mapper's intermediate values. -/
def Obligations.MapIntermediateWidths : Prop :=
  (∀ t o radius : Word16, -65535 ≤ t.toInt - o.toInt ∧ t.toInt - o.toInt ≤ 65535 ∧
    -131070 ≤ centreRelative t o radius ∧ centreRelative t o radius ≤ 65535) ∧
  ∀ tx ty ox oy radius : Word16,
    centreRelative tx ox radius ^ 2 + centreRelative ty oy radius ^ 2 ≤ 2 * 131070 ^ 2 ∧
    (radius ≠ 0 → speedOf (centreRelative tx ox radius) (centreRelative ty oy radius) radius.toNat < 2 ^ 25)

/-- R230, R231: the packet of `JOY`; `InvalidGeometry` on `DIAG` alone, checked before the gate; otherwise the roll of
the mapper's heading and saturated speed with rollState 1, dropped when the gate is occupied. (R231's saturation is the
spec's decision where its source is silent: log 9.) -/
def Obligations.JoyResult : Prop :=
  (∀ (tx ty ox oy radius : Word16) (aim : Bool),
    decode [0x15, if aim then 0x01 else 0x00, highByte tx, lowByte tx, highByte ty, lowByte ty, highByte ox, lowByte ox,
      highByte oy, lowByte oy, highByte radius, lowByte radius] = .instr (.joy tx ty ox oy radius aim)) ∧
  (∀ (tx ty ox oy : Word16) (aim : Bool) (s : State), s.ready = true →
    exec (.joy tx ty ox oy 0 aim) s = .next { s with diagLog := s.diagLog ++ [0x05] }) ∧
  ∀ (tx ty ox oy radius : Word16) (aim : Bool) (s : State) (d : Word16) (speed : Nat), s.ready = true → radius ≠ 0 →
    d = BitVec.ofNat 16 (headingOf (centreRelative tx ox radius) (centreRelative ty oy radius)) →
    speed = (if aim then 0
      else min (speedOf (centreRelative tx ox radius) (centreRelative ty oy radius) radius.toNat) 255) →
      exec (.joy tx ty ox oy radius aim) s = .next (
        if s.busy then s
        else { gatedSent 0x30 [BitVec.ofNat 8 speed, highByte d, lowByte d, 1] s with lastHeading := d })

/-! ## The whole machine -/

/-- R62, R275: whichever stream the next turn goes to, the step takes at most the oldest input of that stream and leaves
the other streams, and the turns to come, as they are. That a reset leaves all the streams and `READY` as they are is the
model's choice (log 6), and that `READY` moves by an arrival of its own and by nothing else is read from R68 (log 3). -/
def Obligations.StreamsKeepTheirOrder : Prop :=
  ∀ (s t : State) (a : Arrival) (sch : List Arrival), s.schedule = a :: sch → step s = .next t →
    t.schedule = sch ∧
    t.req = (if a = .request then s.req.tail else s.req) ∧
    t.settle = (if a = .settle then s.settle.tail else s.settle) ∧
    t.ticks = (if a = .tick then s.ticks - 1 else s.ticks) ∧
    t.ready = (match a with | .ready level => level | _ => s.ready)

/-- R279: between inputs the block is idle and keeps all its state (the model's turns: log 2). -/
def Obligations.IdleKeepsAllState : Prop :=
  (∀ s : State, s.schedule = [] → step s = .next s) ∧
  (∀ (s : State) (sch : List Arrival), s.schedule = .request :: sch → s.req = [] →
    step s = .next { s with schedule := sch }) ∧
  (∀ (s : State) (sch : List Arrival), s.schedule = .settle :: sch → s.settle = [] →
    step s = .next { s with schedule := sch }) ∧
  ∀ (s : State) (sch : List Arrival), s.schedule = .tick :: sch → s.ticks = 0 →
    step s = .next { s with schedule := sch }

/-- R68: a change of the level `READY` is the whole effect of the step in which it comes: the block holds no copy of the
level, so no register, trace or stream follows it. That the change is an arrival of its own is the model's form (log 3). -/
def Obligations.ReadyChangeOnlySetsLevel : Prop :=
  ∀ (s : State) (level : Bool) (sch : List Arrival), s.schedule = .ready level :: sch →
    step s = .next { s with schedule := sch, ready := level }

/-- The machine refuses exactly the inputs to which the spec gives no meaning: a command while `READY` is 0
(spec/93_implementation_defined.md U7) and a settle event with nothing in flight under its tag (U8). Everything else
goes on (log 4, log 5). -/
def Obligations.RefusesOnlyMeaninglessInputs : Prop :=
  ∀ (s : State) (r : Refusal), step s = .refused r ↔
    (∃ sch p rest i, s.schedule = .request :: sch ∧ s.req = p :: rest ∧ decode p = .instr i ∧
      i.operation.isCommand = true ∧ s.ready = false ∧ r = .commandBeforeReady) ∨
    (∃ sch e rest, s.schedule = .settle :: sch ∧ s.settle = e :: rest ∧ s.inflight e.tag = 0 ∧
      r = .settleWithoutWrite e.tag)

/-- R41: every register and every trace at reset. -/
def Obligations.ResetValues : Prop :=
  State.reset.registers = ⟨0x00, false, 0x0000, 0, 0, 0⟩ ∧ State.reset.txLog = [] ∧ State.reset.rspLog = [] ∧
    State.reset.diagLog = []

/-- R290, R292: the reset input during a run, writes in flight and stops queued included. That the inputs already
presented at the ports stay is the model's choice (log 6). -/
def Obligations.ResetArrivalForgets : Prop :=
  ∀ (s : State) (sch : List Arrival), s.schedule = .reset :: sch →
    ∃ t, step s = .next t ∧ t.registers = ⟨0x00, false, 0x0000, 0, 0, 0⟩ ∧ t.txLog = [] ∧ t.rspLog = [] ∧
      t.diagLog = [] ∧ t.schedule = sch ∧ t.req = s.req ∧ t.settle = s.settle ∧ t.ticks = s.ticks ∧ t.ready = s.ready

/-- R292, R270: a settle event that comes after a reset, for a write handed over before it, has no meaning. -/
def Obligations.LateSettleHasNoMeaning : Prop :=
  ∀ (s : State) (sch : List Arrival) (e : SettleEvent) (rest : List SettleEvent),
    s.schedule = .reset :: .settle :: sch → s.settle = e :: rest → run 2 s = .refused (.settleWithoutWrite e.tag)

/-- R40: with a host that issues commands only, single flight and sequence continuity are kept by every step. -/
def Obligations.SingleFlightKept : Prop :=
  ∀ s t : State, CommandsOnly s → SingleFlight s → step s = .next t → CommandsOnly t ∧ SingleFlight t

/-- The invariant of R40 holds at reset. -/
def Obligations.SingleFlightAtReset : Prop := CommandsOnly State.reset ∧ SingleFlight State.reset

/-- R40, R76, R77: in a run of a commands-only host from a state with the invariant, a gated frame is handed over only
when no gated write is in flight, and its sequence byte follows that of the frame before it. -/
def Obligations.GatedFramesOneAtATime : Prop :=
  ∀ (k : Nat) (s t u : State) (f : List Byte), CommandsOnly s → SingleFlight s → run k s = .next t → step t = .next u →
    u.txLog = t.txLog ++ [⟨.G, f⟩] →
      t.inflightG = 0 ∧ t.busy = false ∧ f[4]? = some (BitVec.ofNat 8 t.txLog.length)

/-- R34, R35, R101, R104, R251: in every state a step reaches from one with legal traces, every frame handed over is a
command's frame of format W to device 0x02, every response has one of the forms of R104's table, every diagnostic byte is
a code R251 has emitted on `DIAG`, `STOPQ` is at most 255, and no more writes are in flight than were handed over. -/
def Obligations.TracesStayLegal : Prop :=
  ∀ s t : State, TracesLegal s → step s = .next t → TracesLegal t

/-- The traces are legal at reset. -/
def Obligations.TracesLegalAtReset : Prop := TracesLegal State.reset
end

