-- ==== Sys2Proof/Laws/Decode.lean ====
section
/-! SUPPORT. What the pieces of the request decoder and encoder do: byte order, the opcode table, and the operand
formats. -/

namespace Sys2Proof

theorem word16_toNat (hi lo : Byte) : (word16 hi lo).toNat = hi.toNat * 256 + lo.toNat := by
  have := hi.isLt
  have := lo.isLt
  simp only [word16, BitVec.toNat_ofNat]
  omega

/-- Assembling the two bytes of `be16` gives the value back. -/
theorem word16_of_be16 (v : Word16) :
    word16 (BitVec.ofNat 8 (v.toNat / 256)) (BitVec.ofNat 8 (v.toNat % 256)) = v := by
  have := v.isLt
  apply BitVec.eq_of_toNat_eq
  rw [word16_toNat]
  simp only [BitVec.toNat_ofNat]
  omega

theorem word16_bytes (v : Word16) : word16 (Machine.highByte v) (Machine.lowByte v) = v := word16_of_be16 v

theorem be16_eq (v : Word16) : be16 v = [Machine.highByte v, Machine.lowByte v] := rfl

@[simp] theorem highByte_word16 (hi lo : Byte) : Machine.highByte (word16 hi lo) = hi := by
  have := hi.isLt
  have := lo.isLt
  apply BitVec.eq_of_toNat_eq
  simp only [Machine.highByte, word16_toNat, BitVec.toNat_ofNat]
  omega

@[simp] theorem lowByte_word16 (hi lo : Byte) : Machine.lowByte (word16 hi lo) = lo := by
  have := hi.isLt
  have := lo.isLt
  apply BitVec.eq_of_toNat_eq
  simp only [Machine.lowByte, word16_toNat, BitVec.toNat_ofNat]
  omega

/-- Splitting two assembled bytes gives them back. -/
@[simp] theorem be16_word16 (hi lo : Byte) : be16 (word16 hi lo) = [hi, lo] := by simp [be16_eq]

@[simp] theorem decodeAim_encodeAim (aim : Bool) : decodeAim (encodeAim aim) = some aim := by cases aim <;> rfl

theorem encodeAim_of_decodeAim {b : Byte} {aim : Bool} (h : decodeAim b = some aim) : encodeAim aim = b := by
  unfold decodeAim at h
  split at h
  · cases h; subst b; rfl
  · split at h
    · cases h; subst b; rfl
    · cases h

/-- The opcode table is unambiguous: an opcode selects its own operation where that operation is reachable. -/
theorem ofOpcode_opcode (c : Config) (o : Operation) (h : o.reachable c = true) :
    Operation.ofOpcode c o.opcode = some o := by
  obtain ⟨⟩ | ⟨⟩ := Bool.eq_false_or_eq_true c.directUnitAccess <;> cases o <;>
    simp_all [Operation.ofOpcode, Operation.all, Operation.reachable, Operation.changesUnitState, Operation.opcode,
      List.find?]

/-- What an opcode selects has that opcode and is reachable. -/
theorem opcode_of_ofOpcode {c : Config} {op : Byte} {o : Operation} (h : Operation.ofOpcode c op = some o) :
    o.opcode = op ∧ o.reachable c = true := by
  have := List.find?_some h
  simpa [Bool.and_eq_true] using this

theorem reachable_bb8 (o : Operation) : o.reachable Config.bb8 = true := by cases o <;> rfl

/-- The decoder accepts a packet just when its opcode selects an operation that accepts the operand bytes. -/
theorem decodeWith_eq_instr {c : Config} {p : List Byte} {i : Instr} :
    decodeWith c p = .instr i ↔
      ∃ op rest o, p = op :: rest ∧ Operation.ofOpcode c op = some o ∧ decodeOperands o rest = .instr i := by
  cases p with
  | nil => simp [decodeWith]
  | cons op rest =>
    cases h : Operation.ofOpcode c op with
    | none => simp [decodeWith, h]
    | some o => simp [decodeWith, h]

end Sys2Proof
end

