-- ==== Sys2Proof/Laws/MotionMapper.lean ====
section
/-! SUPPORT. The exact angle arithmetic of Machine/MotionMapper.lean against the real angle: adding two turns adds
their angles, and the degrees of a first-quadrant point are its real angle rounded half up. Bounds of the speed
search. -/

namespace Sys2Proof.Machine

/-- The first-quadrant point of a turn. -/
def Turn.point (u : Turn) : ℂ := ⟨u.re, u.im⟩

/-- The angle a turn stands for. -/
noncomputable def Turn.angle (u : Turn) : ℝ := u.quarters * (Real.pi / 2) + Complex.arg u.point

/-- A point of the first quadrant, off the vertical axis, has its argument in `[0, π/2)`. -/
theorem Turn.arg_point_bounds {u : Turn} (h : 0 < u.re) :
    0 ≤ Complex.arg u.point ∧ Complex.arg u.point < Real.pi / 2 := by
  have hre : 0 < u.point.re := by simpa [Turn.point] using h
  have him : 0 ≤ u.point.im := by simp [Turn.point]
  exact ⟨Complex.arg_nonneg_iff.2 him, (abs_lt.1 (Complex.abs_arg_lt_pi_div_two_iff.2 (.inl hre))).2⟩

theorem Turn.point_ne_zero {u : Turn} (h : 0 < u.re) : u.point ≠ 0 := by
  intro h0
  have : u.point.re = 0 := by rw [h0]; rfl
  simp [Turn.point] at this
  omega

/-- The arguments of two such points add up without wrapping. -/
theorem Turn.arg_mul_point {u v : Turn} (hu : 0 < u.re) (hv : 0 < v.re) :
    Complex.arg (u.point * v.point) = Complex.arg u.point + Complex.arg v.point := by
  have hu' := Turn.arg_point_bounds hu
  have hv' := Turn.arg_point_bounds hv
  refine Complex.arg_mul (Turn.point_ne_zero hu) (Turn.point_ne_zero hv) ⟨?_, ?_⟩ <;> linarith [Real.pi_pos]

/-- Adding two turns stays in the first quadrant and adds the angles. -/
theorem Turn.add_angle {u v : Turn} (hu : 0 < u.re) (hv : 0 < v.re) :
    0 < (u.add v).re ∧ (u.add v).angle = u.angle + v.angle := by
  have hmul := Turn.arg_mul_point hu hv
  by_cases h : u.im * v.im < u.re * v.re
  · have hp : (u.add v).point = u.point * v.point := by
      apply Complex.ext <;> simp [Turn.add, h, Turn.point, Nat.cast_sub h.le]
    have hq : (u.add v).quarters = u.quarters + v.quarters := by simp [Turn.add, h]
    refine ⟨by simp [Turn.add, h], ?_⟩
    rw [Turn.angle, hp, hmul, hq, Turn.angle, Turn.angle]
    push_cast
    ring
  · have hle : u.re * v.re ≤ u.im * v.im := not_lt.1 h
    have him : 0 < u.im := by
      by_contra h0
      have : u.im = 0 := by omega
      have := Nat.mul_pos hu hv
      simp_all
    have hp : (u.add v).point = u.point * v.point * (-Complex.I) := by
      apply Complex.ext <;> simp [Turn.add, h, Turn.point, Nat.cast_sub hle]
    have hq : (u.add v).quarters = u.quarters + v.quarters + 1 := by simp [Turn.add, h]
    have hpos : 0 < u.im * v.re := Nat.mul_pos him hv
    refine ⟨by simp only [Turn.add, if_neg h]; omega, ?_⟩
    have hu' := Turn.arg_point_bounds hu
    have hv' := Turn.arg_point_bounds hv
    have hI : Complex.arg (u.point * v.point * (-Complex.I)) =
        Complex.arg u.point + Complex.arg v.point - Real.pi / 2 := by
      rw [Complex.arg_mul (mul_ne_zero (Turn.point_ne_zero hu) (Turn.point_ne_zero hv)) (by simp)
        (by rw [hmul, Complex.arg_neg_I]; constructor <;> linarith [Real.pi_pos]), hmul, Complex.arg_neg_I]
      ring
    rw [Turn.angle, hp, hI, hq, Turn.angle, Turn.angle]
    push_cast
    ring

/-- `n` times a turn has `n` times its angle. -/
theorem Turn.times_angle {u : Turn} (hu : 0 < u.re) (n : Nat) :
    0 < (u.times n).re ∧ (u.times n).angle = n * u.angle := by
  induction n with
  | zero =>
    have : (⟨1, 0⟩ : ℂ) = 1 := rfl
    simp [Turn.times, Turn.angle, Turn.point, this]
  | succ n ih =>
    obtain ⟨h, ha⟩ := Turn.add_angle ih.1 hu
    refine ⟨h, ?_⟩
    rw [Turn.times, ha, ih.2]
    push_cast
    ring

/-- 360 times the angle of a first-quadrant point. -/
theorem turn360_angle {x : Nat} (hx : 0 < x) (y : Nat) :
    0 < (turn360 x y).re ∧ (turn360 x y).angle = 360 * Complex.arg ⟨x, y⟩ := by
  obtain ⟨h1, e1⟩ := Turn.times_angle (u := ⟨0, x, y⟩) hx 8
  obtain ⟨h2, e2⟩ := Turn.times_angle h1 9
  obtain ⟨h3, e3⟩ := Turn.times_angle h2 5
  refine ⟨h3, ?_⟩
  rw [turn360, e3, e2, e1]
  simp only [Turn.angle, Turn.point]
  push_cast
  ring

/-- The degrees of a first-quadrant point: its real angle, rounded half up (R224). -/
theorem quadrantDegrees_eq_floor {x : Nat} (hx : 0 < x) (y : Nat) :
    (quadrantDegrees x y : Int) = ⌊Complex.arg ⟨x, y⟩ * 180 / Real.pi + 1 / 2⌋ := by
  obtain ⟨hre, ha⟩ := turn360_angle hx y
  obtain ⟨hlo, hhi⟩ := Turn.arg_point_bounds hre
  rw [Turn.angle] at ha
  have hpi := Real.pi_pos
  set q := (turn360 x y).quarters with hq
  set ρ := Complex.arg (turn360 x y).point with hρ
  have key : Complex.arg ⟨x, y⟩ * 180 / Real.pi = (q : ℝ) / 4 + ρ / (2 * Real.pi) := by
    field_simp
    linarith
  have hρ0 : 0 ≤ ρ / (2 * Real.pi) := by positivity
  have hρ1 : ρ / (2 * Real.pi) < 1 / 4 := by
    rw [div_lt_iff₀ (by positivity)]
    linarith
  have hdiv : q + 2 = 4 * ((q + 2) / 4) + (q + 2) % 4 := (Nat.div_add_mod (q + 2) 4).symm
  have hmod : (q + 2) % 4 ≤ 3 := by omega
  have hdivR : (q : ℝ) + 2 = 4 * (((q + 2) / 4 : Nat) : ℝ) + (((q + 2) % 4 : Nat) : ℝ) := by exact_mod_cast hdiv
  have hmodR : (((q + 2) % 4 : Nat) : ℝ) ≤ 3 := by exact_mod_cast hmod
  have hmod0 : (0 : ℝ) ≤ (((q + 2) % 4 : Nat) : ℝ) := Nat.cast_nonneg _
  symm
  rw [Int.floor_eq_iff, key, quadrantDegrees, ← hq]
  simp only [Int.cast_natCast]
  constructor <;> linarith

/-- The speed search answers the greatest value below `found + 2 ^ bits` that meets the condition, if `found` meets it
or is the start. -/
theorem speedSearch_spec (n radius bits found : Nat)
    (h0 : found = 0 ∨ ((2 * found - 1) * radius) ^ 2 ≤ 260100 * n) :
    (speedSearch n radius bits found = 0 ∨
      ((2 * speedSearch n radius bits found - 1) * radius) ^ 2 ≤ 260100 * n) ∧
    found ≤ speedSearch n radius bits found ∧ speedSearch n radius bits found < found + 2 ^ bits ∧
    ∀ s, speedSearch n radius bits found < s → s < found + 2 ^ bits → 260100 * n < ((2 * s - 1) * radius) ^ 2 := by
  induction bits generalizing found with
  | zero => exact ⟨h0, le_refl _, by simp [speedSearch], by intro s h1 h2; simp [speedSearch] at h1 h2; omega⟩
  | succ bits ih =>
    have hpow : 2 ^ (bits + 1) = 2 ^ bits + 2 ^ bits := by ring
    by_cases h : ((2 * (found + 2 ^ bits) - 1) * radius) ^ 2 ≤ 260100 * n
    · obtain ⟨a, b, c, d⟩ := ih (found + 2 ^ bits) (.inr h)
      simp only [speedSearch, if_pos h]
      exact ⟨a, by omega, by omega, fun s h1 h2 => d s h1 (by omega)⟩
    · obtain ⟨a, b, c, d⟩ := ih found h0
      simp only [speedSearch, if_neg h]
      refine ⟨a, b, by omega, fun s h1 h2 => ?_⟩
      by_cases hs : s < found + 2 ^ bits
      · exact d s h1 hs
      · refine lt_of_lt_of_le (not_le.1 h) (Nat.pow_le_pow_left (Nat.mul_le_mul_right _ ?_) 2)
        omega

end Sys2Proof.Machine
end

