-- ==== Sys2Proof/Laws/State.lean ====
section
/-! SUPPORT. One lemma per field of State for each named update of Machine/Ops.lean, Flags.lean, Events.lean and
Fetch.lean, so that no proof unfolds a record update. -/

namespace Sys2Proof.Machine

@[simp] theorem rspPut_seq (b : List Byte) (s : State) : (rspPut b s).seq = s.seq := rfl
@[simp] theorem rspPut_busy (b : List Byte) (s : State) : (rspPut b s).busy = s.busy := rfl
@[simp] theorem rspPut_lastHeading (b : List Byte) (s : State) : (rspPut b s).lastHeading = s.lastHeading := rfl
@[simp] theorem rspPut_stopq (b : List Byte) (s : State) : (rspPut b s).stopq = s.stopq := rfl
@[simp] theorem rspPut_inflightG (b : List Byte) (s : State) : (rspPut b s).inflightG = s.inflightG := rfl
@[simp] theorem rspPut_inflightU (b : List Byte) (s : State) : (rspPut b s).inflightU = s.inflightU := rfl
@[simp] theorem rspPut_txLog (b : List Byte) (s : State) : (rspPut b s).txLog = s.txLog := rfl
@[simp] theorem rspPut_rspLog (b : List Byte) (s : State) : (rspPut b s).rspLog = s.rspLog ++ [b] := rfl
@[simp] theorem rspPut_diagLog (b : List Byte) (s : State) : (rspPut b s).diagLog = s.diagLog := rfl
@[simp] theorem rspPut_ready (b : List Byte) (s : State) : (rspPut b s).ready = s.ready := rfl
@[simp] theorem rspPut_req (b : List Byte) (s : State) : (rspPut b s).req = s.req := rfl
@[simp] theorem rspPut_settle (b : List Byte) (s : State) : (rspPut b s).settle = s.settle := rfl
@[simp] theorem rspPut_ticks (b : List Byte) (s : State) : (rspPut b s).ticks = s.ticks := rfl
@[simp] theorem rspPut_schedule (b : List Byte) (s : State) : (rspPut b s).schedule = s.schedule := rfl

@[simp] theorem diagPut_seq (f : FaultCode) (s : State) : (diagPut f s).seq = s.seq := rfl
@[simp] theorem diagPut_busy (f : FaultCode) (s : State) : (diagPut f s).busy = s.busy := rfl
@[simp] theorem diagPut_lastHeading (f : FaultCode) (s : State) : (diagPut f s).lastHeading = s.lastHeading := rfl
@[simp] theorem diagPut_stopq (f : FaultCode) (s : State) : (diagPut f s).stopq = s.stopq := rfl
@[simp] theorem diagPut_inflightG (f : FaultCode) (s : State) : (diagPut f s).inflightG = s.inflightG := rfl
@[simp] theorem diagPut_inflightU (f : FaultCode) (s : State) : (diagPut f s).inflightU = s.inflightU := rfl
@[simp] theorem diagPut_txLog (f : FaultCode) (s : State) : (diagPut f s).txLog = s.txLog := rfl
@[simp] theorem diagPut_rspLog (f : FaultCode) (s : State) : (diagPut f s).rspLog = s.rspLog := rfl
@[simp] theorem diagPut_diagLog (f : FaultCode) (s : State) : (diagPut f s).diagLog = s.diagLog ++ [f.code] := rfl
@[simp] theorem diagPut_ready (f : FaultCode) (s : State) : (diagPut f s).ready = s.ready := rfl
@[simp] theorem diagPut_req (f : FaultCode) (s : State) : (diagPut f s).req = s.req := rfl
@[simp] theorem diagPut_settle (f : FaultCode) (s : State) : (diagPut f s).settle = s.settle := rfl
@[simp] theorem diagPut_ticks (f : FaultCode) (s : State) : (diagPut f s).ticks = s.ticks := rfl
@[simp] theorem diagPut_schedule (f : FaultCode) (s : State) : (diagPut f s).schedule = s.schedule := rfl

@[simp] theorem txWrite_seq (tag : Tag) (f : List Byte) (s : State) : (txWrite tag f s).seq = s.seq := rfl
@[simp] theorem txWrite_busy (tag : Tag) (f : List Byte) (s : State) : (txWrite tag f s).busy = s.busy := rfl
@[simp] theorem txWrite_lastHeading (tag : Tag) (f : List Byte) (s : State) : (txWrite tag f s).lastHeading = s.lastHeading := rfl
@[simp] theorem txWrite_stopq (tag : Tag) (f : List Byte) (s : State) : (txWrite tag f s).stopq = s.stopq := rfl
@[simp] theorem txWrite_inflightG (tag : Tag) (f : List Byte) (s : State) : (txWrite tag f s).inflightG = s.inflightG := rfl
@[simp] theorem txWrite_inflightU (tag : Tag) (f : List Byte) (s : State) : (txWrite tag f s).inflightU = s.inflightU := rfl
@[simp] theorem txWrite_txLog (tag : Tag) (f : List Byte) (s : State) : (txWrite tag f s).txLog = s.txLog ++ [⟨tag, f⟩] := rfl
@[simp] theorem txWrite_rspLog (tag : Tag) (f : List Byte) (s : State) : (txWrite tag f s).rspLog = s.rspLog := rfl
@[simp] theorem txWrite_diagLog (tag : Tag) (f : List Byte) (s : State) : (txWrite tag f s).diagLog = s.diagLog := rfl
@[simp] theorem txWrite_ready (tag : Tag) (f : List Byte) (s : State) : (txWrite tag f s).ready = s.ready := rfl
@[simp] theorem txWrite_req (tag : Tag) (f : List Byte) (s : State) : (txWrite tag f s).req = s.req := rfl
@[simp] theorem txWrite_settle (tag : Tag) (f : List Byte) (s : State) : (txWrite tag f s).settle = s.settle := rfl
@[simp] theorem txWrite_ticks (tag : Tag) (f : List Byte) (s : State) : (txWrite tag f s).ticks = s.ticks := rfl
@[simp] theorem txWrite_schedule (tag : Tag) (f : List Byte) (s : State) : (txWrite tag f s).schedule = s.schedule := rfl

@[simp] theorem leave_seq (s : State) : (leave s).seq = s.seq := rfl
@[simp] theorem leave_busy (s : State) : (leave s).busy = false := rfl
@[simp] theorem leave_lastHeading (s : State) : (leave s).lastHeading = s.lastHeading := rfl
@[simp] theorem leave_stopq (s : State) : (leave s).stopq = s.stopq := rfl
@[simp] theorem leave_inflightG (s : State) : (leave s).inflightG = s.inflightG := rfl
@[simp] theorem leave_inflightU (s : State) : (leave s).inflightU = s.inflightU := rfl
@[simp] theorem leave_txLog (s : State) : (leave s).txLog = s.txLog := rfl
@[simp] theorem leave_rspLog (s : State) : (leave s).rspLog = s.rspLog := rfl
@[simp] theorem leave_diagLog (s : State) : (leave s).diagLog = s.diagLog := rfl
@[simp] theorem leave_ready (s : State) : (leave s).ready = s.ready := rfl
@[simp] theorem leave_req (s : State) : (leave s).req = s.req := rfl
@[simp] theorem leave_settle (s : State) : (leave s).settle = s.settle := rfl
@[simp] theorem leave_ticks (s : State) : (leave s).ticks = s.ticks := rfl
@[simp] theorem leave_schedule (s : State) : (leave s).schedule = s.schedule := rfl

@[simp] theorem nextSeq_snd_seq (s : State) : (nextSeq s).2.seq = s.seq + 1 := rfl
@[simp] theorem nextSeq_snd_busy (s : State) : (nextSeq s).2.busy = s.busy := rfl
@[simp] theorem nextSeq_snd_lastHeading (s : State) : (nextSeq s).2.lastHeading = s.lastHeading := rfl
@[simp] theorem nextSeq_snd_stopq (s : State) : (nextSeq s).2.stopq = s.stopq := rfl
@[simp] theorem nextSeq_snd_inflightG (s : State) : (nextSeq s).2.inflightG = s.inflightG := rfl
@[simp] theorem nextSeq_snd_inflightU (s : State) : (nextSeq s).2.inflightU = s.inflightU := rfl
@[simp] theorem nextSeq_snd_txLog (s : State) : (nextSeq s).2.txLog = s.txLog := rfl
@[simp] theorem nextSeq_snd_rspLog (s : State) : (nextSeq s).2.rspLog = s.rspLog := rfl
@[simp] theorem nextSeq_snd_diagLog (s : State) : (nextSeq s).2.diagLog = s.diagLog := rfl
@[simp] theorem nextSeq_snd_ready (s : State) : (nextSeq s).2.ready = s.ready := rfl
@[simp] theorem nextSeq_snd_req (s : State) : (nextSeq s).2.req = s.req := rfl
@[simp] theorem nextSeq_snd_settle (s : State) : (nextSeq s).2.settle = s.settle := rfl
@[simp] theorem nextSeq_snd_ticks (s : State) : (nextSeq s).2.ticks = s.ticks := rfl
@[simp] theorem nextSeq_snd_schedule (s : State) : (nextSeq s).2.schedule = s.schedule := rfl

@[simp] theorem countInFlight_seq (tag : Tag) (s : State) : (countInFlight tag s).seq = s.seq := by cases tag <;> rfl
@[simp] theorem countInFlight_busy (tag : Tag) (s : State) : (countInFlight tag s).busy = s.busy := by cases tag <;> rfl
@[simp] theorem countInFlight_lastHeading (tag : Tag) (s : State) : (countInFlight tag s).lastHeading = s.lastHeading := by cases tag <;> rfl
@[simp] theorem countInFlight_stopq (tag : Tag) (s : State) : (countInFlight tag s).stopq = s.stopq := by cases tag <;> rfl
@[simp] theorem countInFlight_inflightG (tag : Tag) (s : State) : (countInFlight tag s).inflightG = s.inflightG + (if tag = .G then 1 else 0) := by cases tag <;> rfl
@[simp] theorem countInFlight_inflightU (tag : Tag) (s : State) : (countInFlight tag s).inflightU = s.inflightU + (if tag = .U then 1 else 0) := by cases tag <;> rfl
@[simp] theorem countInFlight_txLog (tag : Tag) (s : State) : (countInFlight tag s).txLog = s.txLog := by cases tag <;> rfl
@[simp] theorem countInFlight_rspLog (tag : Tag) (s : State) : (countInFlight tag s).rspLog = s.rspLog := by cases tag <;> rfl
@[simp] theorem countInFlight_diagLog (tag : Tag) (s : State) : (countInFlight tag s).diagLog = s.diagLog := by cases tag <;> rfl
@[simp] theorem countInFlight_ready (tag : Tag) (s : State) : (countInFlight tag s).ready = s.ready := by cases tag <;> rfl
@[simp] theorem countInFlight_req (tag : Tag) (s : State) : (countInFlight tag s).req = s.req := by cases tag <;> rfl
@[simp] theorem countInFlight_settle (tag : Tag) (s : State) : (countInFlight tag s).settle = s.settle := by cases tag <;> rfl
@[simp] theorem countInFlight_ticks (tag : Tag) (s : State) : (countInFlight tag s).ticks = s.ticks := by cases tag <;> rfl
@[simp] theorem countInFlight_schedule (tag : Tag) (s : State) : (countInFlight tag s).schedule = s.schedule := by cases tag <;> rfl

@[simp] theorem resetEvent_seq (s : State) : (resetEvent s).seq = 0 := rfl
@[simp] theorem resetEvent_busy (s : State) : (resetEvent s).busy = false := rfl
@[simp] theorem resetEvent_lastHeading (s : State) : (resetEvent s).lastHeading = 0 := rfl
@[simp] theorem resetEvent_stopq (s : State) : (resetEvent s).stopq = 0 := rfl
@[simp] theorem resetEvent_inflightG (s : State) : (resetEvent s).inflightG = 0 := rfl
@[simp] theorem resetEvent_inflightU (s : State) : (resetEvent s).inflightU = 0 := rfl
@[simp] theorem resetEvent_txLog (s : State) : (resetEvent s).txLog = [] := rfl
@[simp] theorem resetEvent_rspLog (s : State) : (resetEvent s).rspLog = [] := rfl
@[simp] theorem resetEvent_diagLog (s : State) : (resetEvent s).diagLog = [] := rfl
@[simp] theorem resetEvent_ready (s : State) : (resetEvent s).ready = s.ready := rfl
@[simp] theorem resetEvent_req (s : State) : (resetEvent s).req = s.req := rfl
@[simp] theorem resetEvent_settle (s : State) : (resetEvent s).settle = s.settle := rfl
@[simp] theorem resetEvent_ticks (s : State) : (resetEvent s).ticks = s.ticks := rfl
@[simp] theorem resetEvent_schedule (s : State) : (resetEvent s).schedule = s.schedule := rfl

@[simp] theorem presentPacket_seq (p : List Byte) (s : State) : (presentPacket p s).seq = s.seq := rfl
@[simp] theorem presentPacket_busy (p : List Byte) (s : State) : (presentPacket p s).busy = s.busy := rfl
@[simp] theorem presentPacket_lastHeading (p : List Byte) (s : State) : (presentPacket p s).lastHeading = s.lastHeading := rfl
@[simp] theorem presentPacket_stopq (p : List Byte) (s : State) : (presentPacket p s).stopq = s.stopq := rfl
@[simp] theorem presentPacket_inflightG (p : List Byte) (s : State) : (presentPacket p s).inflightG = s.inflightG := rfl
@[simp] theorem presentPacket_inflightU (p : List Byte) (s : State) : (presentPacket p s).inflightU = s.inflightU := rfl
@[simp] theorem presentPacket_txLog (p : List Byte) (s : State) : (presentPacket p s).txLog = s.txLog := rfl
@[simp] theorem presentPacket_rspLog (p : List Byte) (s : State) : (presentPacket p s).rspLog = s.rspLog := rfl
@[simp] theorem presentPacket_diagLog (p : List Byte) (s : State) : (presentPacket p s).diagLog = s.diagLog := rfl
@[simp] theorem presentPacket_ready (p : List Byte) (s : State) : (presentPacket p s).ready = true := rfl
@[simp] theorem presentPacket_req (p : List Byte) (s : State) : (presentPacket p s).req = p :: s.req := rfl
@[simp] theorem presentPacket_settle (p : List Byte) (s : State) : (presentPacket p s).settle = s.settle := rfl
@[simp] theorem presentPacket_ticks (p : List Byte) (s : State) : (presentPacket p s).ticks = s.ticks := rfl
@[simp] theorem presentPacket_schedule (p : List Byte) (s : State) : (presentPacket p s).schedule = .request :: s.schedule := rfl

@[simp] theorem gatedSent_seq (cid : Byte) (payload : List Byte) (s : State) :
    (gatedSent cid payload s).seq = s.seq + 1 := rfl
@[simp] theorem gatedSent_busy (cid : Byte) (payload : List Byte) (s : State) :
    (gatedSent cid payload s).busy = true := rfl
@[simp] theorem gatedSent_lastHeading (cid : Byte) (payload : List Byte) (s : State) :
    (gatedSent cid payload s).lastHeading = s.lastHeading := rfl
@[simp] theorem gatedSent_stopq (cid : Byte) (payload : List Byte) (s : State) :
    (gatedSent cid payload s).stopq = s.stopq := rfl
@[simp] theorem gatedSent_inflightG (cid : Byte) (payload : List Byte) (s : State) :
    (gatedSent cid payload s).inflightG = s.inflightG + 1 := rfl
@[simp] theorem gatedSent_inflightU (cid : Byte) (payload : List Byte) (s : State) :
    (gatedSent cid payload s).inflightU = s.inflightU := rfl
@[simp] theorem gatedSent_txLog (cid : Byte) (payload : List Byte) (s : State) :
    (gatedSent cid payload s).txLog = s.txLog ++ [⟨.G, wireFrame 0x02 cid s.seq payload⟩] := rfl
@[simp] theorem gatedSent_rspLog (cid : Byte) (payload : List Byte) (s : State) :
    (gatedSent cid payload s).rspLog = s.rspLog := rfl
@[simp] theorem gatedSent_diagLog (cid : Byte) (payload : List Byte) (s : State) :
    (gatedSent cid payload s).diagLog = s.diagLog := rfl
@[simp] theorem gatedSent_ready (cid : Byte) (payload : List Byte) (s : State) :
    (gatedSent cid payload s).ready = s.ready := rfl
@[simp] theorem gatedSent_req (cid : Byte) (payload : List Byte) (s : State) :
    (gatedSent cid payload s).req = s.req := rfl
@[simp] theorem gatedSent_settle (cid : Byte) (payload : List Byte) (s : State) :
    (gatedSent cid payload s).settle = s.settle := rfl
@[simp] theorem gatedSent_ticks (cid : Byte) (payload : List Byte) (s : State) :
    (gatedSent cid payload s).ticks = s.ticks := rfl
@[simp] theorem gatedSent_schedule (cid : Byte) (payload : List Byte) (s : State) :
    (gatedSent cid payload s).schedule = s.schedule := rfl

@[simp] theorem ungatedSent_seq (cid : Byte) (payload : List Byte) (s : State) :
    (ungatedSent cid payload s).seq = s.seq + 1 := rfl
@[simp] theorem ungatedSent_busy (cid : Byte) (payload : List Byte) (s : State) :
    (ungatedSent cid payload s).busy = s.busy := rfl
@[simp] theorem ungatedSent_lastHeading (cid : Byte) (payload : List Byte) (s : State) :
    (ungatedSent cid payload s).lastHeading = s.lastHeading := rfl
@[simp] theorem ungatedSent_stopq (cid : Byte) (payload : List Byte) (s : State) :
    (ungatedSent cid payload s).stopq = s.stopq := rfl
@[simp] theorem ungatedSent_inflightG (cid : Byte) (payload : List Byte) (s : State) :
    (ungatedSent cid payload s).inflightG = s.inflightG := rfl
@[simp] theorem ungatedSent_inflightU (cid : Byte) (payload : List Byte) (s : State) :
    (ungatedSent cid payload s).inflightU = s.inflightU + 1 := rfl
@[simp] theorem ungatedSent_txLog (cid : Byte) (payload : List Byte) (s : State) :
    (ungatedSent cid payload s).txLog = s.txLog ++ [⟨.U, wireFrame 0x02 cid s.seq payload⟩] := rfl
@[simp] theorem ungatedSent_rspLog (cid : Byte) (payload : List Byte) (s : State) :
    (ungatedSent cid payload s).rspLog = s.rspLog := rfl
@[simp] theorem ungatedSent_diagLog (cid : Byte) (payload : List Byte) (s : State) :
    (ungatedSent cid payload s).diagLog = s.diagLog := rfl
@[simp] theorem ungatedSent_ready (cid : Byte) (payload : List Byte) (s : State) :
    (ungatedSent cid payload s).ready = s.ready := rfl
@[simp] theorem ungatedSent_req (cid : Byte) (payload : List Byte) (s : State) :
    (ungatedSent cid payload s).req = s.req := rfl
@[simp] theorem ungatedSent_settle (cid : Byte) (payload : List Byte) (s : State) :
    (ungatedSent cid payload s).settle = s.settle := rfl
@[simp] theorem ungatedSent_ticks (cid : Byte) (payload : List Byte) (s : State) :
    (ungatedSent cid payload s).ticks = s.ticks := rfl
@[simp] theorem ungatedSent_schedule (cid : Byte) (payload : List Byte) (s : State) :
    (ungatedSent cid payload s).schedule = s.schedule := rfl

@[simp] theorem stopSent_seq (s : State) : (stopSent s).seq = s.seq + 1 := rfl
@[simp] theorem stopSent_busy (s : State) : (stopSent s).busy = true := rfl
@[simp] theorem stopSent_lastHeading (s : State) : (stopSent s).lastHeading = s.lastHeading := rfl
@[simp] theorem stopSent_stopq (s : State) : (stopSent s).stopq = s.stopq := rfl
@[simp] theorem stopSent_inflightG (s : State) : (stopSent s).inflightG = s.inflightG + 1 := rfl
@[simp] theorem stopSent_inflightU (s : State) : (stopSent s).inflightU = s.inflightU := rfl
@[simp] theorem stopSent_txLog (s : State) :
    (stopSent s).txLog = s.txLog ++
      [⟨.G, wireFrame 0x02 0x30 s.seq [100, highByte s.lastHeading, lowByte s.lastHeading, 0]⟩] := rfl
@[simp] theorem stopSent_rspLog (s : State) : (stopSent s).rspLog = s.rspLog := rfl
@[simp] theorem stopSent_diagLog (s : State) : (stopSent s).diagLog = s.diagLog := rfl
@[simp] theorem stopSent_ready (s : State) : (stopSent s).ready = s.ready := rfl
@[simp] theorem stopSent_req (s : State) : (stopSent s).req = s.req := rfl
@[simp] theorem stopSent_settle (s : State) : (stopSent s).settle = s.settle := rfl
@[simp] theorem stopSent_ticks (s : State) : (stopSent s).ticks = s.ticks := rfl
@[simp] theorem stopSent_schedule (s : State) : (stopSent s).schedule = s.schedule := rfl

@[simp] theorem nextSeq_fst (s : State) : (nextSeq s).1 = s.seq := rfl

end Sys2Proof.Machine
end

