-- ==== Sys2Proof/Laws/Ops.lean ====
section
/-! SUPPORT. What each shared operation can do, said once: the codec, the common procedures of the dispatcher, the
events, and the step. Later proofs cite these and do not unfold the operations. -/

namespace Sys2Proof.Machine

/-! ## Faults -/

/-- A raised fault writes the diagnostic trace, and the response trace unless a command raised it. -/
theorem raiseFault_eq (r : Raiser) (f : FaultCode) (s : State) :
    raiseFault r f s = { s with
      rspLog := s.rspLog ++ (if r = .command then [] else [[f.code]])
      diagLog := s.diagLog ++ [f.code] } := by
  cases r <;> simp [raiseFault, diagPut, rspPut]

/-! ## The gate -/

theorem tryEnter_of_busy {s : State} (h : s.busy = true) : tryEnter s = (false, s) := by simp [tryEnter, h]

theorem tryEnter_of_free {s : State} (h : s.busy = false) : tryEnter s = (true, { s with busy := true }) := by
  simp [tryEnter, h]

/-- The drop policy: nothing when the gate is occupied, the body with the gate taken otherwise. -/
theorem dropPolicy_eq (admitted : State → State) (s : State) :
    dropPolicy admitted s = if s.busy then s else admitted { s with busy := true } := by
  cases h : s.busy <;> simp [dropPolicy, tryEnter, h]

/-! ## The codec -/

theorem byteSum_eq (l : List Byte) : byteSum l = (l.map BitVec.toNat).sum := by
  induction l with
  | nil => rfl
  | cons b rest ih => simp [byteSum, ih]

/-- The exclusive-or with 0xFF is the ones' complement (R135). -/
theorem checksum_eq (total : Nat) : checksum total = BitVec.ofNat 8 (255 - total % 256) := by
  have h : ∀ m < 256, m ^^^ 255 = 255 - m := by decide +kernel
  have hm : total &&& 0xFF = total % 256 := Nat.and_two_pow_sub_one_eq_mod total 8
  rw [checksum, hm, h _ (Nat.mod_lt _ (by decide))]

/-- The codec on payloads of legal length builds the frame of format W. -/
theorem buildFrame_ok {did cid sq : Byte} {payload : List Byte} (h : 1 ≤ payload.length ∧ payload.length ≤ 254) :
    buildFrame Config.bb8 did cid sq payload = .ok (wireFrame did cid sq payload) := by
  have hn : ¬ (payload.length < Config.bb8.payloadMin ∨ Config.bb8.payloadMax < payload.length) := by
    simp only [Config.bb8]; omega
  simp only [buildFrame, if_neg hn, wireFrame, checksum_eq, frameTotal, byteSum_eq]
  rfl

/-- The codec refuses every other payload. -/
theorem buildFrame_error {did cid sq : Byte} {payload : List Byte} (h : ¬ (1 ≤ payload.length ∧ payload.length ≤ 254)) :
    buildFrame Config.bb8 did cid sq payload = .error .invalidPayload := by
  have hn : payload.length < Config.bb8.payloadMin ∨ Config.bb8.payloadMax < payload.length := by
    simp only [Config.bb8]; omega
  simp only [buildFrame, if_pos hn]

/-! ## Commands -/

/-- A gated dispatch of a legal payload: one number spent, one gated frame handed over. -/
theorem dispatch_gated {cid : Byte} {payload : List Byte} (s : State)
    (h : 1 ≤ payload.length ∧ payload.length ≤ 254) :
    dispatch Config.bb8 .G cid payload s = { s with
      seq := s.seq + 1
      inflightG := s.inflightG + 1
      txLog := s.txLog ++ [⟨.G, wireFrame 0x02 cid s.seq payload⟩] } := by
  simp only [dispatch, buildFrame_ok h]
  rfl

/-- An ungated dispatch of a legal payload. -/
theorem dispatch_ungated {cid : Byte} {payload : List Byte} (s : State)
    (h : 1 ≤ payload.length ∧ payload.length ≤ 254) :
    dispatch Config.bb8 .U cid payload s = ungatedSent cid payload s := by
  simp only [dispatch, buildFrame_ok h]
  rfl

/-- A gated command: dropped when the gate is occupied, sent otherwise. -/
theorem gatedCommand_eq {cid : Byte} {payload : List Byte} (s : State)
    (h : 1 ≤ payload.length ∧ payload.length ≤ 254) :
    dropPolicy (dispatch Config.bb8 .G cid payload) s = if s.busy then s else gatedSent cid payload s := by
  rw [dropPolicy_eq, dispatch_gated _ h]
  rfl

/-- The body of a roll: `LASTHEADING` is written only when admitted. -/
theorem rollBody_eq (h : Word16) (sp k : Byte) (s : State) :
    rollBody Config.bb8 h sp k s =
      if s.busy then s else { gatedSent 0x30 [sp, highByte h, lowByte h, k] s with lastHeading := h } := by
  rw [rollBody, dropPolicy_eq, dispatch_gated _ (by simp [rollPayload, be16])]
  rfl

/-- The sending half of stop, with the gate free. -/
theorem sendStop_eq {s : State} (h : s.busy = false) : sendStop Config.bb8 s = stopSent s := by
  rw [sendStop, tryEnter_of_free h, dispatch_gated _ (by simp [stopPayload, rollPayload, be16])]
  rfl

/-- The body of stop: queued, lost, or sent. -/
theorem stopBody_eq (s : State) :
    stopBody Config.bb8 s =
      if s.busy then
        if s.stopq = 255 then { s with diagLog := s.diagLog ++ [0x06] } else { s with stopq := s.stopq + 1 }
      else stopSent s := by
  cases h : s.busy with
  | false => simp [stopBody, h, sendStop_eq h]
  | true => simp [stopBody, h, Config.bb8, diagPut, FaultCode.code]

/-- The back-LED command on this hardware never asks the gate. -/
theorem backLedBody_eq (b : Byte) (s : State) : backLedBody Config.bb8 b s = ungatedSent 0x21 [b] s :=
  dispatch_ungated (payload := [b]) s ⟨Nat.le_refl 1, (by decide : 1 ≤ 254)⟩

/-- A command with `READY` at 1 runs its body. -/
theorem whenReady_ready {s : State} (f : State → State) (h : s.ready = true) : whenReady f s = .next (f s) := by
  simp [whenReady, h]

/-- A command with `READY` at 0 is refused. -/
theorem whenReady_notReady {s : State} (f : State → State) (h : s.ready = false) :
    whenReady f s = .refused .commandBeforeReady := by
  simp [whenReady, h]

/-- A command that answers a next state ran its body. -/
theorem whenReady_next {f : State → State} {s t : State} (h : whenReady f s = .next t) : s.ready = true ∧ t = f s := by
  unfold whenReady at h
  split at h
  · exact ⟨‹_›, by simpa using h.symm⟩
  · cases h

/-! ## The mapper's fault -/

theorem mapVector_zero (tx ty ox oy : Word16) (aim : Bool) :
    mapVector tx ty ox oy 0 aim = .error .invalidGeometry := rfl

theorem mapVector_ok {radius : Word16} (h : radius ≠ 0) (tx ty ox oy : Word16) (aim : Bool) :
    mapVector tx ty ox oy radius aim =
      .ok ⟨BitVec.ofNat 16 (headingOf (centreRelative tx ox radius) (centreRelative ty oy radius)),
        if aim then 0
        else BitVec.ofNat 32
          (speedOf (centreRelative tx ox radius) (centreRelative ty oy radius) radius.toNat)⟩ := by
  rw [mapVector, if_neg h]

/-- The body of `JOY` with a radius of 0: the fault on `DIAG` alone, whatever the gate. -/
theorem joyBody_zero (c : Config) (tx ty ox oy : Word16) (aim : Bool) (s : State) :
    joyBody c tx ty ox oy 0 aim s = { s with diagLog := s.diagLog ++ [0x05] } := rfl

/-- The body of `JOY` otherwise: the roll of the mapper's result. -/
theorem joyBody_ok {tx ty ox oy radius : Word16} {aim : Bool} {v : MotionVector}
    (hv : mapVector tx ty ox oy radius aim = .ok v) (s : State) :
    joyBody Config.bb8 tx ty ox oy radius aim s =
      if s.busy then s
      else { gatedSent 0x30 [saturatedSpeed v, highByte v.heading, lowByte v.heading, 1] s with
        lastHeading := v.heading } := by
  simp only [joyBody, hv, rollBody_eq]

/-! ## Events -/

theorem reportStatus_eq (status : Status) (s : State) :
    reportStatus status s = { s with diagLog := s.diagLog ++ (if status = .fail then [0x02] else []) } := by
  cases status
  · simp [reportStatus]
  · rfl

/-- A retry tick: one waiting stop is sent when the gate is free, otherwise nothing. -/
theorem tickEvent_eq (s : State) :
    tickEvent Config.bb8 s =
      if 0 < s.stopq ∧ s.busy = false then stopSent { s with stopq := s.stopq - 1 } else s := by
  unfold tickEvent
  split
  · rename_i h; exact sendStop_eq (s := { s with stopq := s.stopq - 1 }) h.2
  · rfl

/-- A settle event that answers a next state had a write in flight under its tag. -/
theorem settleEvent_next {e : SettleEvent} {s t : State} (h : settleEvent e s = .next t) :
    (e.tag = .G ∧ 0 < s.inflightG ∧
      t = { s with
        inflightG := s.inflightG - 1
        busy := false
        diagLog := s.diagLog ++ (if e.status = .fail then [0x02] else []) }) ∨
    (e.tag = .U ∧ 0 < s.inflightU ∧
      t = { s with
        inflightU := s.inflightU - 1
        diagLog := s.diagLog ++ (if e.status = .fail then [0x02] else []) }) := by
  obtain ⟨tag, status⟩ := e
  cases tag
  · by_cases hn : s.inflightG = 0
    · simp [settleEvent, hn] at h
    · simp only [settleEvent, if_neg hn, reportStatus_eq] at h
      cases h
      exact .inl ⟨rfl, Nat.pos_of_ne_zero hn, rfl⟩
  · by_cases hn : s.inflightU = 0
    · simp [settleEvent, hn] at h
    · simp only [settleEvent, if_neg hn, reportStatus_eq] at h
      cases h
      exact .inr ⟨rfl, Nat.pos_of_ne_zero hn, rfl⟩

/-! ## Operations -/

/-- What an operation can do when it answers a next state: one case per outcome the rules give. -/
theorem exec_cases {i : Instr} {s t : State} (h : exec i s = .next t) :
    (∃ did cid sq payload, i = .build did cid sq payload ∧
      ((1 ≤ payload.length ∧ payload.length ≤ 254 ∧
          t = { s with rspLog := s.rspLog ++ [0x00 :: wireFrame did cid sq payload] }) ∨
        (¬ (1 ≤ payload.length ∧ payload.length ≤ 254) ∧
          t = { s with rspLog := s.rspLog ++ [[0x01]], diagLog := s.diagLog ++ [0x01] }))) ∨
    (i = .next ∧ t = { s with seq := s.seq + 1, rspLog := s.rspLog ++ [[0x00, s.seq]] }) ∨
    (i = .tryEnter ∧ t = { s with
      busy := true, rspLog := s.rspLog ++ [[0x00, if s.busy then 0x00 else 0x01]] }) ∨
    (i = .leave ∧ t = { s with busy := false, rspLog := s.rspLog ++ [[0x00]] }) ∨
    (∃ tx ty ox oy radius aim, i = .map tx ty ox oy radius aim ∧
      ((∃ v, mapVector tx ty ox oy radius aim = .ok v ∧
          t = { s with rspLog := s.rspLog ++ [0x00 :: v.bytes] }) ∨
        (radius = 0 ∧ t = { s with rspLog := s.rspLog ++ [[0x05]], diagLog := s.diagLog ++ [0x05] }))) ∨
    (i.operation.isCommand = true ∧ s.ready = true ∧
      ((s.busy = true ∧ i ≠ .stop ∧ t = s) ∨
        (i = .stop ∧ s.busy = true ∧ s.stopq = 255 ∧ t = { s with diagLog := s.diagLog ++ [0x06] }) ∨
        (i = .stop ∧ s.busy = true ∧ s.stopq ≠ 255 ∧ t = { s with stopq := s.stopq + 1 }) ∨
        (i = .stop ∧ s.busy = false ∧ t = stopSent s) ∨
        (∃ h, i = .setHeading h ∧ s.busy = false ∧ t = gatedSent 0x01 [highByte h, lowByte h] s) ∨
        (∃ r g b, i = .setColor r g b ∧ s.busy = false ∧ t = gatedSent 0x20 [r, g, b, 0] s) ∨
        (∃ b, i = .setBackLed b ∧ t = ungatedSent 0x21 [b] s) ∨
        (∃ h sp k, i = .roll h sp k ∧ s.busy = false ∧
          t = { gatedSent 0x30 [sp, highByte h, lowByte h, k] s with lastHeading := h }) ∨
        (∃ tx ty ox oy radius aim v, i = .joy tx ty ox oy radius aim ∧ s.busy = false ∧
          mapVector tx ty ox oy radius aim = .ok v ∧
          t = { gatedSent 0x30 [saturatedSpeed v, highByte v.heading, lowByte v.heading, 1] s with
            lastHeading := v.heading }) ∨
        (∃ tx ty ox oy aim, i = .joy tx ty ox oy 0 aim ∧ t = { s with diagLog := s.diagLog ++ [0x05] }))) := by
  cases i with
  | build did cid sq payload =>
    refine .inl ⟨did, cid, sq, payload, rfl, ?_⟩
    by_cases hp : 1 ≤ payload.length ∧ payload.length ≤ 254
    · simp only [exec, execBuild, buildFrame_ok hp] at h
      cases h
      exact .inl ⟨hp.1, hp.2, rfl⟩
    · simp only [exec, execBuild, buildFrame_error hp] at h
      cases h
      exact .inr ⟨hp, rfl⟩
  | next => cases h; exact .inr (.inl ⟨rfl, rfl⟩)
  | tryEnter =>
    refine .inr (.inr (.inl ⟨rfl, ?_⟩))
    cases hb : s.busy
    · simp only [exec, execTryEnter, tryEnter_of_free hb] at h; cases h; rfl
    · simp only [exec, execTryEnter, tryEnter_of_busy hb] at h
      cases h; simp [respond, rspPut, hb, FaultCode.code]
  | leave => cases h; exact .inr (.inr (.inr (.inl ⟨rfl, rfl⟩)))
  | map tx ty ox oy radius aim =>
    refine .inr (.inr (.inr (.inr (.inl ⟨tx, ty, ox, oy, radius, aim, rfl, ?_⟩))))
    by_cases hr : radius = 0
    · subst hr; cases h; exact .inr ⟨rfl, rfl⟩
    · simp only [exec, execMap, mapVector_ok hr] at h
      cases h
      exact .inl ⟨_, mapVector_ok hr .., rfl⟩
  | setHeading x =>
    obtain ⟨hr, rfl⟩ := whenReady_next h
    refine .inr (.inr (.inr (.inr (.inr ⟨rfl, hr, ?_⟩))))
    rw [gatedCommand_eq _ (by simp [headingPayload, be16])]
    cases hb : s.busy <;> simp [headingPayload, be16_eq, cidHeading]
  | roll x sp k =>
    obtain ⟨hr, rfl⟩ := whenReady_next h
    refine .inr (.inr (.inr (.inr (.inr ⟨rfl, hr, ?_⟩))))
    rw [rollBody_eq]
    cases hb : s.busy <;> simp
  | stop =>
    obtain ⟨hr, rfl⟩ := whenReady_next h
    refine .inr (.inr (.inr (.inr (.inr ⟨rfl, hr, ?_⟩))))
    rw [stopBody_eq]
    cases hb : s.busy
    · simp
    · by_cases hq : s.stopq = 255 <;> simp [hq]
  | setColor r g b =>
    obtain ⟨hr, rfl⟩ := whenReady_next h
    refine .inr (.inr (.inr (.inr (.inr ⟨rfl, hr, ?_⟩))))
    rw [gatedCommand_eq _ (by simp [colorPayload])]
    cases hb : s.busy <;> simp [colorPayload, cidColor]
  | setBackLed b =>
    obtain ⟨hr, rfl⟩ := whenReady_next h
    refine .inr (.inr (.inr (.inr (.inr ⟨rfl, hr, ?_⟩))))
    rw [backLedBody_eq]
    simp
  | joy tx ty ox oy radius aim =>
    obtain ⟨hr, rfl⟩ := whenReady_next h
    refine .inr (.inr (.inr (.inr (.inr ⟨rfl, hr, ?_⟩))))
    by_cases h0 : radius = 0
    · subst h0
      exact .inr (.inr (.inr (.inr (.inr (.inr (.inr (.inr (.inr ⟨tx, ty, ox, oy, aim, rfl, rfl⟩))))))))
    · rw [joyBody_ok (mapVector_ok h0 ..)]
      cases hb : s.busy
      · exact .inr (.inr (.inr (.inr (.inr (.inr (.inr (.inr (.inl
          ⟨tx, ty, ox, oy, radius, aim, _, rfl, rfl, mapVector_ok h0 .., rfl⟩))))))))
      · exact .inl ⟨rfl, by simp, rfl⟩

/-! ## The step -/

/-- What a step can do when it answers a next state: the turn that was next, and what it delivered. -/
theorem step_cases {s t : State} (h : step s = .next t) :
    (s.schedule = [] ∧ t = s) ∨
    ∃ a sch, s.schedule = a :: sch ∧
      ((a = .request ∧ s.req = [] ∧ t = { s with schedule := sch }) ∨
        (∃ p rest why, a = .request ∧ s.req = p :: rest ∧ decode p = .illegal why ∧
          t = { s with
            schedule := sch, req := rest, rspLog := s.rspLog ++ [[0x04]], diagLog := s.diagLog ++ [0x04] }) ∨
        (∃ p rest i, a = .request ∧ s.req = p :: rest ∧ decode p = .instr i ∧
          exec i { s with schedule := sch, req := rest } = .next t) ∨
        (a = .settle ∧ s.settle = [] ∧ t = { s with schedule := sch }) ∨
        (∃ e rest, a = .settle ∧ s.settle = e :: rest ∧
          settleEvent e { s with schedule := sch, settle := rest } = .next t) ∨
        (a = .tick ∧ s.ticks = 0 ∧ t = { s with schedule := sch }) ∨
        (∃ n, a = .tick ∧ s.ticks = n + 1 ∧ t = tickEvent Config.bb8 { s with schedule := sch, ticks := n }) ∨
        (∃ level, a = .ready level ∧ t = { s with schedule := sch, ready := level }) ∨
        (a = .reset ∧ t = resetEvent { s with schedule := sch })) := by
  unfold step at h
  cases hs : s.schedule with
  | nil => rw [hs] at h; cases h; exact .inl ⟨rfl, rfl⟩
  | cons a sch =>
    rw [hs] at h
    refine .inr ⟨a, sch, rfl, ?_⟩
    cases a with
    | request =>
      cases hq : s.req with
      | nil => simp only [deliver, hq] at h; cases h; exact .inl ⟨rfl, rfl, rfl⟩
      | cons p rest =>
        simp only [deliver, hq, handlePacket] at h
        cases hd : decode p with
        | instr i =>
          rw [hd] at h
          exact .inr (.inr (.inl ⟨p, rest, i, rfl, rfl, hd, h⟩))
        | illegal why =>
          rw [hd] at h
          cases h
          exact .inr (.inl ⟨p, rest, why, rfl, rfl, hd, rfl⟩)
    | settle =>
      cases hq : s.settle with
      | nil => simp only [deliver, hq] at h; cases h; exact .inr (.inr (.inr (.inl ⟨rfl, rfl, rfl⟩)))
      | cons e rest =>
        simp only [deliver, hq] at h
        exact .inr (.inr (.inr (.inr (.inl ⟨e, rest, rfl, rfl, h⟩))))
    | tick =>
      cases hq : s.ticks with
      | zero =>
        simp only [deliver, hq] at h; cases h
        exact .inr (.inr (.inr (.inr (.inr (.inl ⟨rfl, rfl, rfl⟩)))))
      | succ n =>
        simp only [deliver, hq] at h; cases h
        exact .inr (.inr (.inr (.inr (.inr (.inr (.inl ⟨n, rfl, rfl, rfl⟩))))))
    | ready level => cases h; exact .inr (.inr (.inr (.inr (.inr (.inr (.inr (.inl ⟨level, rfl, rfl⟩)))))))
    | reset => cases h; exact .inr (.inr (.inr (.inr (.inr (.inr (.inr (.inr ⟨rfl, rfl⟩)))))))

/-! ## Runs -/

theorem run_zero (s : State) : run 0 s = .next s := rfl

/-- A run of one more step takes the step first. -/
theorem run_succ_of_step {s t : State} (k : Nat) (h : step s = .next t) : run (k + 1) s = run k t := by
  have h' : Sys2Proof.core.step s = .next t := h
  simp only [run, Host.Core.run]
  rw [h']

/-- A run whose first step is refused is refused. -/
theorem run_succ_of_refused {s : State} {r : Refusal} (k : Nat) (h : step s = .refused r) :
    run (k + 1) s = .refused r := by
  have h' : Sys2Proof.core.step s = .refused r := h
  simp only [run, Host.Core.run]
  rw [h']
  rfl

/-- A run that answers a next state took a first step that did. -/
theorem run_succ_next {s t : State} {k : Nat} (h : run (k + 1) s = .next t) :
    ∃ u, step s = .next u ∧ run k u = .next t := by
  cases hs : step s with
  | next u => exact ⟨u, rfl, by rw [← run_succ_of_step k hs, h]⟩
  | fault r => cases r
  | refused r => rw [run_succ_of_refused k hs] at h; cases h

/-- An invariant of the step holds along every run. -/
theorem run_keeps {P : State → Prop} (hP : ∀ s t, P s → step s = .next t → P t) {k : Nat} {s t : State}
    (hs : P s) (h : run k s = .next t) : P t := by
  induction k generalizing s with
  | zero => cases h; exact hs
  | succ k ih =>
    obtain ⟨u, hu, hr⟩ := run_succ_next h
    exact ih (hP s u hs hu) hr

end Sys2Proof.Machine
end

