-- ==== Sys2Proof/Laws/PerInstr.lean ====
section
/-! SUPPORT. What holds of every instruction's packet, one lemma per constructor: its first byte is the opcode of its row
and its length is the one that opcode demands (spec/30_encoding.md R95, R96, R99). -/

namespace Sys2Proof.Laws.Packet

/-- A well-formed instruction's packet starts with its opcode and has the length its format demands, format `V` reading
the packet's own byte 4. -/
def Statement (i : Instr) : Prop :=
  i.wellFormed = true →
    (encode i).head? = some i.operation.opcode ∧
    (encode i).length = i.operation.format.packetLength ((encode i)[4]?.getD 0).toNat

theorem build (did cid seq : Byte) (payload : List Byte) : Statement (.build did cid seq payload) := by
  intro h
  have h' : payload.length ≤ 255 := by simpa [Instr.wellFormed] using h
  have hmod : payload.length % 256 = payload.length := Nat.mod_eq_of_lt (by omega)
  refine ⟨rfl, ?_⟩
  simp [encode, encodeOperands, Instr.operation, Operation.format, Format.packetLength, hmod]
  omega

theorem next : Statement .next := fun _ => ⟨rfl, rfl⟩

theorem tryEnter : Statement .tryEnter := fun _ => ⟨rfl, rfl⟩

theorem leave : Statement .leave := fun _ => ⟨rfl, rfl⟩

theorem map (tx ty ox oy radius : Word16) (aim : Bool) : Statement (.map tx ty ox oy radius aim) := fun _ => ⟨rfl, rfl⟩

theorem setHeading (h : Word16) : Statement (.setHeading h) := fun _ => ⟨rfl, rfl⟩

theorem roll (h : Word16) (s k : Byte) : Statement (.roll h s k) := fun _ => ⟨rfl, rfl⟩

theorem stop : Statement .stop := fun _ => ⟨rfl, rfl⟩

theorem setColor (r g b : Byte) : Statement (.setColor r g b) := fun _ => ⟨rfl, rfl⟩

theorem setBackLed (b : Byte) : Statement (.setBackLed b) := fun _ => ⟨rfl, rfl⟩

theorem joy (tx ty ox oy radius : Word16) (aim : Bool) : Statement (.joy tx ty ox oy radius aim) := fun _ => ⟨rfl, rfl⟩

end Sys2Proof.Laws.Packet
end

