-- ==== Sys2Proof/Tests/Slice0.lean ====
section
/-! SUPPORT. The model's own tests: what the form check refuses, packets written out from the encodings of the spec, single
steps from the vectors of spec/95_test_vectors.md (the vector's id in each docstring), and for each obligation with
hypotheses a state and operands that meet them. -/

namespace Sys2Proof.Tests

open Sys2Proof Sys2Proof.Machine

/-! ## Helpers -/

/-- A state in the notation of spec/95_test_vectors.md, handshake completed, nothing presented at the ports. -/
def st (seq : Byte) (busy : Bool) (lastHeading : Word16) (stopq inflightG inflightU : Nat) : State :=
  { State.reset with
    seq := seq, busy := busy, lastHeading := lastHeading, stopq := stopq, inflightG := inflightG,
    inflightU := inflightU, ready := true }

/-- What a vector shows of a next state: the registers and the three traces. -/
structure Shown where
  registers : Registers
  tx : List TxWrite
  rsp : List (List Byte)
  diag : List Byte
deriving DecidableEq, Repr

/-- What an outcome shows; `none` for a refusal. -/
def shown : Host.Outcome State Fault Refusal → Option Shown
  | .next s => some ⟨s.registers, s.txLog, s.rspLog, s.diagLog⟩
  | .fault _ => none
  | .refused _ => none

/-- One step that consumes a packet. -/
def sendPacket (packet : List Byte) (s : State) : Option Shown := shown (step (presentPacket packet s))

/-- One step that consumes a settle event. -/
def settleStep (e : SettleEvent) (s : State) : Option Shown :=
  shown (step { s with settle := [e], schedule := [.settle] })

/-- One step that consumes a tick. -/
def tickStep (s : State) : Option Shown := shown (step { s with ticks := 1, schedule := [.tick] })

/-! ## Well-formedness, decoding and encoding -/

/-- The one check: a payload that byte `len` of format `V` cannot count (R96). -/
theorem test_wellFormed_refuses_long_payload : (Instr.build 0 0 0 (List.replicate 256 0)).wellFormed = false := by
  decide +kernel

/-- Payloads of 0 and 255 bytes are packets all the same (R97, R106). -/
theorem test_wellFormed_admits_empty_and_255 :
    (Instr.build 0 0 0 []).wellFormed = true ∧ (Instr.build 0 0 0 (List.replicate 255 0)).wellFormed = true := by
  decide +kernel

/-- One packet for each of the eleven operations, written out from R96 and R100. -/
theorem test_decode_each_operation :
    decode [0x00, 0x02, 0x21, 0x07, 0x01, 0xD3] = .instr (.build 2 33 7 [211]) ∧
    decode [0x01] = .instr .next ∧
    decode [0x02] = .instr .tryEnter ∧
    decode [0x03] = .instr .leave ∧
    decode [0x04, 0x01, 0x7F, 0xFF, 0x80, 0x00, 0x00, 0x01, 0xFF, 0xFE, 0x12, 0x34] =
      .instr (.map 32767 (-32768) 1 (-2) 4660 true) ∧
    decode [0x10, 0x01, 0x23] = .instr (.setHeading 291) ∧
    decode [0x11, 0x00, 0x5A, 0x80, 0x01] = .instr (.roll 90 128 1) ∧
    decode [0x12] = .instr .stop ∧
    decode [0x13, 0xFF, 0x01, 0x02] = .instr (.setColor 255 1 2) ∧
    decode [0x14, 0xFF] = .instr (.setBackLed 255) ∧
    decode [0x15, 0x00, 0x00, 0x95, 0x00, 0x23, 0x00, 0x00, 0x00, 0x00, 0x00, 0x96] =
      .instr (.joy 149 35 0 0 150 false) := by
  decide +kernel

/-- X1 to X11. -/
theorem test_decode_illegal :
    decode [] = .illegal .emptyPacket ∧
    decode [0x05] = .illegal .reservedOpcode ∧
    decode [0x0F, 0x00] = .illegal .reservedOpcode ∧
    decode [0x16] = .illegal .reservedOpcode ∧
    decode [0xFF, 0xFF, 0x02, 0x20, 0x00, 0x05, 0x00, 0xFA, 0x00, 0x00, 0xDE] = .illegal .reservedOpcode ∧
    decode [0x12, 0x00] = .illegal .wrongLength ∧
    decode [0x11, 0x00, 0x5A, 0x80] = .illegal .wrongLength ∧
    decode [0x00, 0x02, 0x20, 0x00] = .illegal .wrongLength ∧
    decode [0x00, 0x02, 0x20, 0x00, 0x04, 0x00, 0xFA, 0x00] = .illegal .wrongLength ∧
    decode [0x04, 0x02, 0x00, 0x96, 0x00, 0x00, 0x00, 0x00, 0x00, 0x00, 0x00, 0x96] = .illegal .reservedAim ∧
    decode [0x15, 0xFF, 0x00, 0x96, 0x00, 0x00, 0x00, 0x00, 0x00, 0x00, 0x00, 0x96] = .illegal .reservedAim := by
  decide +kernel

/-- M24's packet, from the encoder. -/
theorem test_encode_map : encode (.map (-10) (-10) (-20) (-20) 10 false) =
    [0x04, 0x00, 0xFF, 0xF6, 0xFF, 0xF6, 0xFF, 0xEC, 0xFF, 0xEC, 0x00, 0x0A] := by decide +kernel

/-- Rows of spec/opcode_table.json as numbers, first byte lowest: whole packets, and opcodes alone whose operand bytes are
then 0. -/
theorem test_decodeTableWord :
    decodeTableWord 24 0x230110 = some (.setHeading 291) ∧
    decodeTableWord 40 0x01805A0011 = some (.roll 90 128 1) ∧
    decodeTableWord 8 0x04 = some (.map 0 0 0 0 0 false) ∧
    decodeTableWord 8 0x00 = some (.build 0 0 0 []) ∧
    decodeTableWord 16 0x0012 = none ∧
    decodeTableWord 8 0x16 = none := by
  decide +kernel

/-- `withFetchWord` makes the very next step run the row, from reset: K2's frame, at `SEQ` 0. -/
theorem test_withFetchWord : shown (step (State.reset.withFetchWord 24 0x230110)) =
    some ⟨⟨1, true, 0, 0, 1, 0⟩, [⟨.G, [0xFF, 0xFF, 0x02, 0x01, 0x00, 0x03, 0x01, 0x23, 0xD5]⟩], [], []⟩ := by
  decide +kernel

/-- The lines of R110. -/
theorem test_asm :
    (Instr.build 2 32 0 [0, 250]).asm = "BUILD 2, 32, 0, [0, 250]" ∧
    (Instr.map (-10) 300 0 0 150 true).asm = "MAP -10, 300, 0, 0, 150, 1" ∧
    Instr.stop.asm = "STOP" := by
  decide +kernel

/-! ## Single steps -/

/-- F1 -/
theorem test_build_F1 : sendPacket [0x00, 0x02, 0x20, 0x00, 0x04, 0x00, 0xFA, 0x00, 0x00] (st 0 false 0 0 0 0) =
    some ⟨⟨0, false, 0, 0, 0, 0⟩, [], [[0x00, 0xFF, 0xFF, 0x02, 0x20, 0x00, 0x05, 0x00, 0xFA, 0x00, 0x00, 0xDE]], []⟩ := by
  decide +kernel

/-- F10 -/
theorem test_build_F10 : sendPacket [0x00, 0x02, 0x20, 0x00, 0x00] (st 5 true 9 1 1 2) =
    some ⟨⟨5, true, 9, 1, 1, 2⟩, [], [[0x01]], [0x01]⟩ := by
  decide +kernel

/-- Q4 -/
theorem test_next_Q4 : sendPacket [0x01] (st 0xFF true 0x5A 2 1 3) =
    some ⟨⟨0, true, 0x5A, 2, 1, 3⟩, [], [[0x00, 0xFF]], []⟩ := by
  decide +kernel

/-- T1 -/
theorem test_tryEnter_T1 : sendPacket [0x02] (st 0 false 0 0 0 0) =
    some ⟨⟨0, true, 0, 0, 0, 0⟩, [], [[0x00, 0x01]], []⟩ := by
  decide +kernel

/-- T2 -/
theorem test_tryEnter_T2 : sendPacket [0x02] (st 0 true 0 0 0 0) =
    some ⟨⟨0, true, 0, 0, 0, 0⟩, [], [[0x00, 0x00]], []⟩ := by
  decide +kernel

/-- T5 -/
theorem test_leave_T5 : sendPacket [0x03] (st 5 true 0x5A 0 1 0) =
    some ⟨⟨5, false, 0x5A, 0, 1, 0⟩, [], [[0x00]], []⟩ := by
  decide +kernel

/-- M11: the heading rounds up to 360. -/
theorem test_map_M11 : sendPacket [0x04, 0x00, 0x00, 0x95, 0x00, 0x23, 0x00, 0x00, 0x00, 0x00, 0x00, 0x96]
    (st 2 true 0 0 1 0) = some ⟨⟨2, true, 0, 0, 1, 0⟩, [], [[0x00, 0x01, 0x68, 0x00, 0x00, 0x00, 0xC4]], []⟩ := by
  decide +kernel

/-- M25: the operands of largest magnitude on one side. -/
theorem test_map_M25 : sendPacket [0x04, 0x00, 0x7F, 0xFF, 0x7F, 0xFF, 0x80, 0x00, 0x80, 0x00, 0x00, 0x01]
    (st 0 false 0 0 0 0) = some ⟨⟨0, false, 0, 0, 0, 0⟩, [], [[0x00, 0x00, 0x87, 0x01, 0x68, 0x9D, 0x0B]], []⟩ := by
  decide +kernel

/-- Headings of M1, M3 to M14 and M16. -/
theorem test_headings :
    headingOf 0 (-150) = 0 ∧ headingOf 150 0 = 90 ∧ headingOf 0 150 = 180 ∧ headingOf (-150) 0 = 270 ∧
    headingOf 0 0 = 180 ∧ headingOf 150 (-150) = 45 ∧ headingOf 150 150 = 135 ∧ headingOf (-150) 150 = 225 ∧
    headingOf (-150) (-150) = 315 ∧ headingOf (-1) (-115) = 360 ∧ headingOf (-1) (-114) = 359 ∧
    headingOf (-1) (-150) = 360 ∧ headingOf 1 (-150) = 0 ∧ headingOf 3 (-4) = 37 := by
  decide +kernel

/-- Speeds of M1, M6, M7, M15, M17 (ties), M20, M22, M26, and the greatest of R226. -/
theorem test_speeds :
    speedOf 0 (-150) 150 = 255 ∧ speedOf 0 0 150 = 0 ∧ speedOf 150 (-150) 150 = 361 ∧ speedOf 0 (-5) 150 = 9 ∧
    speedOf 75 0 150 = 128 ∧ speedOf 1 0 2 = 128 ∧ speedOf 50 (-50) 150 = 120 ∧
    speedOf (-131070) (-131070) 65535 = 721 ∧ speedOf (-65536) (-65536) 1 = 23633885 := by
  decide +kernel

/-- K2 -/
theorem test_setHeading_K2 : sendPacket [0x10, 0x01, 0x23] (st 5 false 0 0 0 0) =
    some ⟨⟨6, true, 0, 0, 1, 0⟩, [⟨.G, [0xFF, 0xFF, 0x02, 0x01, 0x05, 0x03, 0x01, 0x23, 0xD0]⟩], [], []⟩ := by
  decide +kernel

/-- K3 -/
theorem test_setHeading_K3 : sendPacket [0x10, 0x01, 0x23] (st 5 true 0 0 1 0) =
    some ⟨⟨5, true, 0, 0, 1, 0⟩, [], [], []⟩ := by
  decide +kernel

/-- K6 -/
theorem test_roll_K6 : sendPacket [0x11, 0x01, 0x68, 0xFF, 0x01] (st 0xFF false 0 0 0 0) =
    some ⟨⟨0, true, 0x168, 0, 1, 0⟩, [⟨.G, [0xFF, 0xFF, 0x02, 0x30, 0xFF, 0x05, 0xFF, 0x01, 0x68, 0x01, 0x60]⟩], [], []⟩ := by
  decide +kernel

/-- K5 -/
theorem test_roll_K5 : sendPacket [0x11, 0x00, 0xB4, 0x0A, 0x01] (st 2 true 0x5A 0 1 0) =
    some ⟨⟨2, true, 0x5A, 0, 1, 0⟩, [], [], []⟩ := by
  decide +kernel

/-- K15 -/
theorem test_stop_K15 : sendPacket [0x12] (st 2 false 0x5A 2 0 0) =
    some ⟨⟨3, true, 0x5A, 2, 1, 0⟩, [⟨.G, [0xFF, 0xFF, 0x02, 0x30, 0x02, 0x05, 0x64, 0x00, 0x5A, 0x00, 0x08]⟩], [], []⟩ := by
  decide +kernel

/-- K11 -/
theorem test_stop_K11 : sendPacket [0x12] (st 2 true 0x5A 255 1 0) =
    some ⟨⟨2, true, 0x5A, 255, 1, 0⟩, [], [], [0x06]⟩ := by
  decide +kernel

/-- K16 -/
theorem test_setColor_K16 : sendPacket [0x13, 0xFF, 0x00, 0x00] (st 3 false 0 0 0 0) =
    some ⟨⟨4, true, 0, 0, 1, 0⟩, [⟨.G, [0xFF, 0xFF, 0x02, 0x20, 0x03, 0x05, 0xFF, 0x00, 0x00, 0x00, 0xD6]⟩], [], []⟩ := by
  decide +kernel

/-- K18 -/
theorem test_setBackLed_K18 : sendPacket [0x14, 0xFF] (st 1 true 0x5A 0 1 0) =
    some ⟨⟨2, true, 0x5A, 0, 1, 1⟩, [⟨.U, [0xFF, 0xFF, 0x02, 0x21, 0x01, 0x02, 0xFF, 0xDA]⟩], [], []⟩ := by
  decide +kernel

/-- J2: the speed 510 saturates. -/
theorem test_joy_J2 : sendPacket [0x15, 0x00, 0x01, 0xC2, 0x00, 0x96, 0x00, 0x00, 0x00, 0x00, 0x00, 0x96]
    (st 5 false 0x5A 0 0 0) =
    some ⟨⟨6, true, 0x5A, 0, 1, 0⟩, [⟨.G, [0xFF, 0xFF, 0x02, 0x30, 0x05, 0x05, 0xFF, 0x00, 0x5A, 0x01, 0x69]⟩], [], []⟩ := by
  decide +kernel

/-- J7: the geometry is checked before the gate. -/
theorem test_joy_J7 : sendPacket [0x15, 0x00, 0x00, 0x01, 0x00, 0x01, 0x00, 0x00, 0x00, 0x00, 0x00, 0x00]
    (st 3 true 0x0A 0 1 0) = some ⟨⟨3, true, 0x0A, 0, 1, 0⟩, [], [], [0x05]⟩ := by
  decide +kernel

/-- X2, from the request port. -/
theorem test_illegal_X2 : sendPacket [0x05] (st 2 true 0 0 1 0) =
    some ⟨⟨2, true, 0, 0, 1, 0⟩, [], [[0x04]], [0x04]⟩ := by
  decide +kernel

/-- K12: a tick with the gate occupied. -/
theorem test_tick_K12 : tickStep (st 2 true 0x5A 1 1 0) = some ⟨⟨2, true, 0x5A, 1, 1, 0⟩, [], [], []⟩ := by
  decide +kernel

/-- K13: a tick with the gate free. -/
theorem test_tick_K13 : tickStep (st 2 false 0x5A 1 0 0) =
    some ⟨⟨3, true, 0x5A, 0, 1, 0⟩, [⟨.G, [0xFF, 0xFF, 0x02, 0x30, 0x02, 0x05, 0x64, 0x00, 0x5A, 0x00, 0x08]⟩], [], []⟩ := by
  decide +kernel

/-- K21: a gated write fails. -/
theorem test_settle_K21 : settleStep ⟨.G, .fail⟩ (st 3 true 0x5A 1 1 2) =
    some ⟨⟨3, false, 0x5A, 1, 0, 2⟩, [], [], [0x02]⟩ := by
  decide +kernel

/-- K22: an ungated write settles. -/
theorem test_settle_K22 : settleStep ⟨.U, .ok⟩ (st 3 true 0x5A 1 1 2) =
    some ⟨⟨3, true, 0x5A, 1, 1, 1⟩, [], [], []⟩ := by
  decide +kernel

/-! ## Witnesses: each obligation's hypotheses can be met together -/

/-- Whether an outcome is a next state with a property. -/
def nextWith (o : Host.Outcome State Fault Refusal) (P : State → Prop) [DecidablePred P] : Bool :=
  match o with
  | .next t => decide (P t)
  | .fault _ => false
  | .refused _ => false

theorem exists_of_nextWith {o : Host.Outcome State Fault Refusal} {P : State → Prop} [DecidablePred P]
    (h : nextWith o P = true) : ∃ t, o = .next t ∧ P t := by
  cases o with
  | next t => exact ⟨t, rfl, by simpa [nextWith] using h⟩
  | fault r => cases r
  | refused r => simp [nextWith] at h

/-- A roll in flight, its write about to settle. -/
def rolling : State :=
  { st 1 true 0x5A 0 1 0 with
    txLog := [⟨.G, wireFrame 0x02 0x30 0 [128, 0, 90, 1]⟩], settle := [⟨.G, .ok⟩], schedule := [.settle] }

/-- The same with a colour request to come after the settle. -/
def rollingThenColor : State := { rolling with req := [[0x13, 1, 2, 3]], schedule := [.settle, .request] }

theorem test_witness_DecodeOfEncode :
    (Instr.build 2 32 0 (List.replicate 255 7)).wellFormed = true ∧ (Instr.joy 1 2 3 4 0 true).wellFormed = true := by
  decide +kernel

theorem test_witness_EncodeOfDecode :
    decode [0x00, 0xFF, 0xFF, 0xFF, 0x00] = .instr (.build 255 255 255 []) ∧
    decode [0x10, 0xFF, 0xFF] = .instr (.setHeading 65535) := by
  decide +kernel

theorem test_witness_IllegalPacketOnlyReported :
    let s := presentPacket [0x12, 0x00] (st 1 true 0x5A 1 1 1)
    s.schedule = .request :: [] ∧ s.req = [0x12, 0x00] :: [] ∧ decode [0x12, 0x00] = .illegal .wrongLength := by
  decide +kernel

theorem test_witness_DirectUnitAccessClosed :
    (Config.mk 8 8 16 1 254 16 16 16 32 100 100 255 2 false false).directUnitAccess = false := rfl

theorem test_witness_StepRunsDecoded :
    let s := presentPacket [0x14, 0xFF] (st 1 true 0x5A 1 1 1)
    s.schedule = .request :: [] ∧ s.req = [0x14, 0xFF] :: [] ∧ decode [0x14, 0xFF] = .instr (.setBackLed 255) := by
  decide +kernel

/-- `READY` is 1 with the gate free and with it occupied: the premise of `AimPseudoOperations` and of the result
statements of the six commands. -/
theorem test_witness_commands_ready :
    (st 0 false 0 0 0 0).ready = true ∧ (st 0 false 0 0 0 0).busy = false ∧
    (st 0 true 0 255 1 0).ready = true ∧ (st 0 true 0 255 1 0).busy = true := by
  decide +kernel

/-- Both lengths at the edge of the packet and of the codec. -/
theorem test_witness_BuildResult :
    (List.replicate 255 (7 : Byte)).length ≤ 255 ∧ 1 ≤ [(7 : Byte)].length ∧
    (List.replicate 254 (7 : Byte)).length ≤ 254 := by
  decide +kernel

theorem test_witness_FramesPassReceiverCheck :
    buildFrame Config.bb8 2 33 7 [0xD4] = .ok [0xFF, 0xFF, 2, 33, 7, 2, 0xD4, 0xFF] := rfl

theorem test_witness_NextWraparound :
    let s : State := { State.reset with
      schedule := List.replicate 257 .request, req := List.replicate 257 [0x01] }
    s.seq = 0 ∧ s.schedule = List.replicate 257 .request ∧ s.req = List.replicate 257 [0x01] :=
  ⟨rfl, rfl, rfl⟩

/-- An operation that sends, one that does not, a direct `NEXT`, a settle event, an illegal packet, a direct `NEXT` as a
step, a change of `READY`, an idle turn and a reset. -/
theorem test_witness_SequenceAdvancesPerFrame :
    (∃ t, exec (.setBackLed 9) (st 255 true 0 0 1 0) = .next t) ∧
    (∃ t, exec .stop (st 255 true 0 0 1 0) = .next t) ∧
    (∃ t, exec .next (st 255 true 0 0 1 0) = .next t) ∧
    (∃ t, settleEvent ⟨.G, .fail⟩ (st 255 true 0 0 1 0) = .next t) ∧
    (let s := presentPacket [0x05] (st 255 true 0 0 1 0)
     s.schedule = .request :: [] ∧ s.req = [0x05] :: [] ∧ decode [0x05] = .illegal .reservedOpcode ∧
       ∃ t, step s = .next t) ∧
    (∃ t, step (presentPacket [0x01] (st 255 true 0 0 1 0)) = .next t) ∧
    (∃ t, step { st 255 true 0 0 1 0 with schedule := [.ready false] } = .next t) ∧
    (∃ t, step (st 255 true 0 0 1 0) = .next t) ∧
    (∃ t, step { st 255 true 0 0 1 0 with schedule := [.reset] } = .next t) :=
  ⟨⟨_, rfl⟩, ⟨_, rfl⟩, ⟨_, rfl⟩, ⟨_, rfl⟩, ⟨rfl, rfl, rfl, _, rfl⟩, ⟨_, rfl⟩, ⟨_, rfl⟩, ⟨_, rfl⟩, _, rfl⟩

theorem test_witness_TryEnterResult : (st 0 true 0 0 0 0).busy = true ∧ (st 0 false 0 0 0 0).busy = false := ⟨rfl, rfl⟩

/-- `BUSY` cleared by each of its three causes. -/
theorem test_witness_BusyWriters_cleared :
    (∃ t, step { st 0 true 0 0 1 0 with schedule := [.reset] } = .next t ∧ t.busy = false) ∧
    (∃ t, step { st 0 true 0 0 1 0 with settle := [⟨.G, .ok⟩], schedule := [.settle] } = .next t ∧ t.busy = false) ∧
    (∃ t, step (presentPacket [0x03] (st 0 true 0 0 1 0)) = .next t ∧ t.busy = false) :=
  ⟨⟨_, rfl, rfl⟩, ⟨_, rfl, rfl⟩, _, rfl, rfl⟩

/-- `BUSY` set by each of its causes. -/
theorem test_witness_BusyWriters_set :
    (∃ t, step { st 0 false 0 1 0 0 with ticks := 1, schedule := [.tick] } = .next t ∧ t.busy = true) ∧
    (∃ t, step (presentPacket [0x02] (st 0 false 0 0 0 0)) = .next t ∧ t.busy = true) ∧
    (∃ t, step (presentPacket [0x10, 0, 1] (st 0 false 0 0 0 0)) = .next t ∧ t.busy = true) ∧
    (∃ t, step (presentPacket [0x11, 0, 1, 2, 3] (st 0 false 0 0 0 0)) = .next t ∧ t.busy = true) ∧
    (∃ t, step (presentPacket [0x12] (st 0 false 0 0 0 0)) = .next t ∧ t.busy = true) ∧
    (∃ t, step (presentPacket [0x13, 0, 1, 2] (st 0 false 0 0 0 0)) = .next t ∧ t.busy = true) ∧
    (∃ t, step (presentPacket [0x15, 0, 0, 3, 0, 2, 0, 0, 0, 0, 0, 2] (st 0 false 0 0 0 0)) = .next t ∧
      t.busy = true) := by
  refine ⟨?_, ?_, ?_, ?_, ?_, ?_, ?_⟩ <;> exact exists_of_nextWith (by decide +kernel)

/-- Two steps with the gate held: a dropped roll and an ungated settle event. -/
theorem test_witness_GateHeldUntilLeave :
    let s : State := { st 0 true 0 0 0 1 with
      req := [[0x11, 0, 1, 2, 3]], settle := [⟨.U, .ok⟩], schedule := [.request, .settle] }
    s.busy = true ∧ (∀ p ∈ s.req, decode p ≠ .instr .leave) ∧ (∀ e ∈ s.settle, e.tag = .U) ∧
      .reset ∉ s.schedule ∧ ∃ t, run 2 s = .next t := by
  refine ⟨rfl, ?_, ?_, ?_, _, rfl⟩ <;> decide +kernel

/-- Each of the four dropped commands. -/
theorem test_witness_DroppedRequestDoesNothing :
    (st 0 true 0 0 1 0).ready = true ∧ (st 0 true 0 0 1 0).busy = true ∧
    decode [0x10, 0, 1] = .instr (.setHeading 1) ∧
    decode [0x11, 0, 1, 2, 3] = .instr (.roll 1 2 3) ∧
    decode [0x13, 0, 1, 2] = .instr (.setColor 0 1 2) ∧
    decode [0x15, 0, 0, 3, 0, 2, 0, 0, 0, 0, 0, 1] = .instr (.joy 3 2 0 0 1 false) := by
  decide +kernel

theorem test_witness_CommandsNeedReady :
    State.reset.ready = false ∧ (Instr.joy 0 0 0 0 0 false).operation.isCommand = true ∧
    (Instr.stop).operation.isCommand = true := by
  decide +kernel

/-- A unit operation, a command, and an illegal packet. -/
theorem test_witness_ResponsesPerOperation :
    ((∃ t, exec (.map 0 0 0 0 0 true) (st 0 false 0 0 0 0) = .next t) ∧
      (Instr.map 0 0 0 0 0 true).operation.isCommand = false) ∧
    ((∃ t, exec .stop (st 0 true 0 255 1 0) = .next t) ∧ Instr.stop.operation.isCommand = true) ∧
    decode [] = .illegal .emptyPacket :=
  ⟨⟨⟨_, rfl⟩, rfl⟩, ⟨⟨_, rfl⟩, rfl⟩, rfl⟩

/-- By reset, by a roll and by a joystick sample. -/
theorem test_witness_LastHeadingWriters :
    (∃ t, step { st 0 true 9 0 1 0 with schedule := [.reset] } = .next t ∧ t.lastHeading ≠ 9) ∧
    (∃ t, step (presentPacket [0x11, 0, 1, 2, 3] (st 0 false 9 0 0 0)) = .next t ∧ t.lastHeading ≠ 9) ∧
    (∃ t, step (presentPacket [0x15, 0, 0, 3, 0, 2, 0, 0, 0, 0, 0, 2] (st 0 false 9 0 0 0)) = .next t ∧
      t.lastHeading ≠ 9) := by
  refine ⟨?_, ?_, ?_⟩ <;> exact exists_of_nextWith (by decide +kernel)

/-- By reset, by a stop that queues as the last that fits, and by a tick. -/
theorem test_witness_StopqWriters :
    (∃ t, step { st 0 true 9 3 1 0 with schedule := [.reset] } = .next t ∧ t.stopq ≠ 3) ∧
    (∃ t, step (presentPacket [0x12] (st 0 true 9 254 1 0)) = .next t ∧ t.stopq ≠ 254) ∧
    (∃ t, step { st 0 false 9 1 0 0 with ticks := 1, schedule := [.tick] } = .next t ∧ t.stopq ≠ 1) := by
  refine ⟨?_, ?_, ?_⟩ <;> exact exists_of_nextWith (by decide +kernel)

/-- A unit operation that faults, two commands that do, and an illegal packet. -/
theorem test_witness_FaultsChangeNoRegister :
    (∃ t, exec (.build 1 2 3 (List.replicate 255 0)) (st 0 true 0 0 1 0) = .next t ∧ t.diagLog ≠ []) ∧
    (∃ t, exec .stop (st 0 true 0 255 1 0) = .next t ∧ t.diagLog ≠ []) ∧
    (∃ t, exec (.joy 1 1 0 0 0 false) (st 0 true 0 0 1 0) = .next t ∧ t.diagLog ≠ []) ∧
    decode [0x16] = .illegal .reservedOpcode := by
  refine ⟨?_, ?_, ?_, by decide +kernel⟩ <;> exact exists_of_nextWith (by decide +kernel)

theorem test_witness_StepOutputsAtMostOne :
    let s := presentPacket [0x00, 1, 2, 3, 0] (st 0 true 0 0 1 0)
    (∃ t, step s = .next t) ∧ s.schedule.head? ≠ some .reset :=
  ⟨⟨_, rfl⟩, by decide +kernel⟩

theorem test_witness_NoCommandRaisesInvalidPayload :
    Instr.stop.operation.isCommand = true ∧ ∃ t, exec .stop (st 0 true 0 255 1 0) = .next t := ⟨rfl, _, rfl⟩

/-- A tick that sends, one that finds the gate occupied, and one with no stop waiting. -/
theorem test_witness_TickResult :
    let s : State := { st 0 false 0 1 0 0 with ticks := 1, schedule := [.tick] }
    s.schedule = .tick :: [] ∧ s.ticks = 0 + 1 ∧ (0 < s.stopq ∧ s.busy = false) ∧
      ¬ (0 < s.stopq ∧ (st 0 true 0 1 1 0).busy = false) ∧ ¬ (0 < (st 0 false 0 0 0 0).stopq ∧ s.busy = false) := by
  decide +kernel

theorem test_witness_GatedSettleResult :
    rolling.schedule = .settle :: [] ∧ rolling.settle = ⟨.G, .ok⟩ :: [] ∧ 0 < rolling.inflightG := by
  decide +kernel

theorem test_witness_UngatedSettleResult :
    let s : State := { st 0 true 0 0 1 1 with settle := [⟨.U, .fail⟩], schedule := [.settle] }
    s.schedule = .settle :: [] ∧ s.settle = ⟨.U, .fail⟩ :: [] ∧ 0 < s.inflightU := by
  decide +kernel

theorem test_witness_InFlightCountsWrites :
    (∃ t, exec (.setColor 1 2 3) (st 0 false 0 0 0 0) = .next t) ∧
    (∃ t, settleEvent ⟨.U, .ok⟩ (st 0 false 0 0 0 1) = .next t) :=
  ⟨⟨_, rfl⟩, _, rfl⟩

/-- The last stop that still fits waits for the roll in flight. -/
theorem test_witness_QueuedStopIsSentAfterSettle :
    let s : State := { rolling with
      stopq := 254, req := [[0x12]], ticks := 1, schedule := [.request, .settle, .tick] }
    s.ready = true ∧ s.busy = true ∧ 0 < s.inflightG ∧ s.stopq < 255 ∧ s.req = [0x12] :: [] ∧
      s.settle = ⟨.G, .ok⟩ :: [] ∧ 0 < s.ticks ∧ s.schedule = .request :: .settle :: .tick :: [] := by
  decide +kernel

theorem test_witness_WaitingStopSeesLaterRoll :
    let s : State := { rolling with
      req := [[0x12], [0x11, highByte 0xABCD, lowByte 0xABCD, 50, 1]], settle := [⟨.G, .fail⟩, ⟨.G, .ok⟩], ticks := 1,
      schedule := [.request, .settle, .request, .settle, .tick] }
    s.ready = true ∧ s.busy = true ∧ s.inflightG = 1 ∧ s.stopq < 255 ∧
      s.req = [0x12] :: [0x11, highByte 0xABCD, lowByte 0xABCD, 50, 1] :: [] ∧
      s.settle = ⟨.G, .fail⟩ :: ⟨.G, .ok⟩ :: [] ∧ 0 < s.ticks ∧
      s.schedule = .request :: .settle :: .request :: .settle :: .tick :: [] := by
  decide +kernel

/-- The least and the greatest radius: `SpeedIsRoundedAndGreatest`, `MapResult`, `MapResultRanges`,
`MapIntermediateWidths` and `JoyResult`. -/
theorem test_witness_radius : (1 : Word16) ≠ 0 ∧ (65535 : Word16) ≠ 0 := by decide +kernel

/-- M11 with `JOY`: the operands the result statement computes. -/
theorem test_witness_JoyResult :
    (st 6 false 0x5A 0 0 0).ready = true ∧ (150 : Word16) ≠ 0 ∧
    (360 : Word16) = BitVec.ofNat 16 (headingOf (centreRelative 149 0 150) (centreRelative 35 0 150)) ∧
    196 = (if false then 0
      else min (speedOf (centreRelative 149 0 150) (centreRelative 35 0 150) (150 : Word16).toNat) 255) := by
  decide +kernel

theorem test_witness_HeadingCompass : (0 : Int) < 1 ∧ (1 : Int) ≤ 1 := by decide

/-- One arrival of each kind. -/
theorem test_witness_StreamsKeepTheirOrder :
    (∃ t, step { rollingThenColor with schedule := [.request, .settle] } = .next t) ∧
    (∃ t, step rollingThenColor = .next t) ∧
    (∃ t, step { rolling with ticks := 2, schedule := [.tick] } = .next t) ∧
    (∃ t, step { rolling with schedule := [.ready false] } = .next t) ∧
    (∃ t, step { rolling with schedule := [.reset] } = .next t) :=
  ⟨⟨_, rfl⟩, ⟨_, rfl⟩, ⟨_, rfl⟩, ⟨_, rfl⟩, _, rfl⟩

theorem test_witness_IdleKeepsAllState :
    (st 0 true 0 1 1 0).schedule = [] ∧
    (let s : State := { st 0 true 0 1 1 0 with schedule := [.request] }
     s.schedule = .request :: [] ∧ s.req = []) ∧
    (let s : State := { st 0 true 0 1 1 0 with schedule := [.settle] }
     s.schedule = .settle :: [] ∧ s.settle = []) ∧
    (let s : State := { st 0 true 0 1 1 0 with schedule := [.tick] }
     s.schedule = .tick :: [] ∧ s.ticks = 0) := by
  decide +kernel

/-- The level rises and falls. -/
theorem test_witness_ReadyChangeOnlySetsLevel :
    { State.reset with schedule := [.ready true] }.schedule = .ready true :: [] ∧
    { rolling with schedule := [.ready false, .settle] }.schedule = .ready false :: [.settle] := ⟨rfl, rfl⟩

/-- The two inputs that are refused. -/
theorem test_witness_RefusesOnlyMeaninglessInputs :
    step { State.reset with req := [[0x12]], schedule := [.request] } = .refused .commandBeforeReady ∧
    step { st 0 true 0 0 0 1 with settle := [⟨.G, .ok⟩], schedule := [.settle] } =
      .refused (.settleWithoutWrite .G) ∧
    step { st 0 true 0 0 1 0 with settle := [⟨.U, .ok⟩], schedule := [.settle] } =
      .refused (.settleWithoutWrite .U) :=
  ⟨rfl, rfl, rfl⟩

theorem test_witness_ResetArrivalForgets :
    { rolling with schedule := [.reset, .settle] }.schedule = .reset :: [.settle] := rfl

theorem test_witness_LateSettleHasNoMeaning :
    let s : State := { rolling with schedule := [.reset, .settle] }
    s.schedule = .reset :: .settle :: [] ∧ s.settle = ⟨.G, .ok⟩ :: [] := ⟨rfl, rfl⟩

/-- A commands-only host with a roll in flight meets the invariant of R40. -/
theorem test_witness_SingleFlightKept :
    CommandsOnly rollingThenColor ∧ SingleFlight rollingThenColor ∧ ∃ t, step rollingThenColor = .next t := by
  refine ⟨?_, ⟨by decide, by decide, by decide, ?_⟩, _, rfl⟩
  · intro p hp i hi
    have hp' : p = [0x13, 1, 2, 3] := by simpa [rollingThenColor] using hp
    rw [hp', show decode [0x13, 1, 2, 3] = .instr (.setColor 1 2 3) from rfl] at hi
    cases hi
    rfl
  · intro k w h
    cases k with
    | zero => cases h; rfl
    | succ k => cases h

/-- After the settle the colour frame goes out. -/
theorem test_witness_GatedFramesOneAtATime :
    ∃ t u, run 1 rollingThenColor = .next t ∧ step t = .next u ∧
      u.txLog = t.txLog ++ [⟨.G, wireFrame 0x02 0x20 1 [1, 2, 3, 0]⟩] :=
  ⟨_, _, rfl, rfl, by decide +kernel⟩

/-- A roll in flight, with a response of each form of R104 and a code of each kind that a command leaves. -/
def traced : State :=
  { rolling with
    rspLog := [[0x00], [0x00, 0x07], [0x00, 0x01, 0x68, 0x00, 0x00, 0x00, 0xC4],
      [0x00, 0xFF, 0xFF, 0x02, 0x20, 0x00, 0x05, 0x00, 0xFA, 0x00, 0x00, 0xDE], [0x01], [0x04], [0x05]]
    diagLog := [0x01, 0x04, 0x05, 0x02, 0x06] }

theorem test_witness_TracesStayLegal : TracesLegal traced ∧ ∃ t, step traced = .next t := by
  refine ⟨⟨by decide, ?_, ?_, ?_, ?_⟩, _, rfl⟩
  · intro w hw
    have hw' : w = ⟨.G, wireFrame 0x02 0x30 0 [128, 0, 90, 1]⟩ := by simpa [traced, rolling] using hw
    exact ⟨0, [128, 0, 90, 1], .inr (.inl ⟨hw', rfl⟩)⟩
  · intro r hr
    simp only [traced, List.mem_cons, List.not_mem_nil, or_false] at hr
    rcases hr with rfl | rfl | rfl | rfl | rfl | rfl | rfl
    · exact .inl rfl
    · exact .inr (.inl ⟨_, rfl⟩)
    · exact .inr (.inr (.inl ⟨_, rfl, rfl⟩))
    · exact .inr (.inr (.inr (.inl ⟨0x02, 0x20, 0, [0, 250, 0, 0], by decide, by decide, rfl⟩)))
    all_goals simp [IsResponse]
  · intro d hd
    simp only [traced, List.mem_cons, List.not_mem_nil, or_false] at hd
    rcases hd with rfl | rfl | rfl | rfl | rfl <;> simp [IsDiagCode]
  · intro tag
    cases tag <;> decide

/-- A response of three bytes that is no form of R104, which the invariant of TracesStayLegal shuts out. -/
theorem test_isResponse_refuses : ¬ IsResponse [0x00, 0x01, 0x02] ∧ ¬ IsResponse [] ∧ ¬ IsResponse [0x06] := by
  refine ⟨?_, ?_, ?_⟩ <;> (intro h; simp [IsResponse, wireFrame] at h)

end Sys2Proof.Tests
end

section
/-! PROOF. The step on a request that is a legal packet (spec/00_scope.md R11). The rules of the step, of the delivery
of a turn and of a packet are equations from the shape of the input, as `step_cases` inverts an answered step. -/

namespace Sys2Proof.Machine

/-- The next turn leaves the schedule before its input is delivered. -/
theorem step_of_schedule_cons {s : State} {a : Arrival} {sch : List Arrival} (h : s.schedule = a :: sch) :
    step s = deliver a { s with schedule := sch } := by
  simp only [step, h]

/-- The oldest request packet leaves `REQ` before it is handled. -/
theorem deliver_request_of_req_cons {s : State} {p : List Byte} {rest : List (List Byte)} (h : s.req = p :: rest) :
    deliver .request s = handlePacket p { s with req := rest } := by
  simp only [deliver, h]

/-- A legal packet means its instruction, in any state. -/
theorem handlePacket_of_decode_instr {p : List Byte} {i : Instr} (h : decode p = .instr i) (s : State) :
    handlePacket p s = exec i s := by
  simp only [handlePacket, h]

/-- Settles O7: the turn is consumed, then the packet, and the legal packet is its instruction. -/
theorem stepRunsDecoded : Obligations.StepRunsDecoded := by
  intro s sch p rest i hsch hreq hdec
  rw [step_of_schedule_cons hsch, deliver_request_of_req_cons (s := { s with schedule := sch }) hreq,
    handlePacket_of_decode_instr hdec]

end Sys2Proof.Machine
end

section
/-! PROOF. What the decoder reads from operand bytes (spec/30_encoding.md R96, R100). -/

namespace Sys2Proof

/-- The operand bytes of an operation are read as an instruction of that operation (R96). -/
theorem operation_of_decodeOperands {o : Operation} {rest : List Byte} {i : Instr}
    (h : decodeOperands o rest = .instr i) : i.operation = o := by
  cases o <;>
    simp only [decodeOperands, decodeZ, decodeB, decodeH, decodeC, decodeR, decodeT, decodeV] at h <;>
    repeat' split at h
  all_goals cases h
  all_goals rfl

/-- Format `Z` has no operand bytes (R96). -/
theorem eq_nil_of_decodeZ {i j : Instr} {rest : List Byte} (h : decodeZ i rest = .instr j) : rest = [] := by
  cases rest with
  | nil => rfl
  | cons => cases h

/-- The packet of `STOP` is its opcode alone (R100). -/
theorem eq_of_decode_stop {p : List Byte} (h : decode p = .instr .stop) : p = [0x12] := by
  obtain ⟨op, rest, o, rfl, ho, hd⟩ := decodeWith_eq_instr.1 h
  obtain ⟨rfl, -⟩ := opcode_of_ofOpcode ho
  obtain rfl : Operation.stop = o := operation_of_decodeOperands hd
  rw [eq_nil_of_decodeZ hd]
  rfl

end Sys2Proof
end

section
/-! PROOF. What an input leaves behind (spec/10_state.md R30 to R39): `exec_cases` and `step_cases` grouped by their
effect on the registers and the traces. Later proofs split on `exec_effect` and `step_effect`. -/

namespace Sys2Proof.Machine

/-! ## Effects that touch no register and hand nothing over -/

/-- Every response and every diagnostic code of `t` stood in `s` already or is a legal one (R104, R251). -/
structure ReportsLegal (s t : State) : Prop where
  answers : ∀ r ∈ t.rspLog, r ∈ s.rspLog ∨ IsResponse r
  codes : ∀ d ∈ t.diagLog, d ∈ s.diagLog ∨ IsDiagCode d

/-- From `s` to `t` every register and `TXLOG` stay, and no request is presented: only reports are added. -/
structure ReportsOnly (s t : State) : Prop extends ReportsLegal s t where
  registers : t.registers = s.registers
  txLog : t.txLog = s.txLog
  requests : t.req ⊆ s.req

/-- Traces that grow by legal responses and legal codes only. -/
theorem ReportsLegal.of_append {s t : State} {answered : List (List Byte)} {reported : List Byte}
    (hr : t.rspLog = s.rspLog ++ answered) (hd : t.diagLog = s.diagLog ++ reported)
    (ha : ∀ r ∈ answered, IsResponse r) (hc : ∀ d ∈ reported, IsDiagCode d) : ReportsLegal s t where
  answers r h := (List.mem_append.1 (hr ▸ h)).imp_right (ha r)
  codes d h := (List.mem_append.1 (hd ▸ h)).imp_right (hc d)

/-- Traces that stay as they are add no report. -/
theorem ReportsLegal.of_eq {s t : State} (hr : t.rspLog = s.rspLog) (hd : t.diagLog = s.diagLog) :
    ReportsLegal s t :=
  ⟨fun _ h => .inl (hr ▸ h), fun _ h => .inl (hd ▸ h)⟩

/-- One legal response more, and no code. -/
theorem ReportsLegal.of_answer {s t : State} {r : List Byte} (h : IsResponse r) (hr : t.rspLog = s.rspLog ++ [r])
    (hd : t.diagLog = s.diagLog) : ReportsLegal s t :=
  .of_append hr (reported := []) (by simpa using hd) (by simpa using h) (by simp)

/-- One legal code more, and no response: a fault of a command (R262). -/
theorem ReportsLegal.of_code {s t : State} {d : Byte} (h : IsDiagCode d) (hr : t.rspLog = s.rspLog)
    (hd : t.diagLog = s.diagLog ++ [d]) : ReportsLegal s t :=
  .of_append (answered := []) (by simpa using hr) hd (by simp) (by simpa using h)

/-- One legal code more on both traces: a fault of a unit operation or an illegal packet (R262). -/
theorem ReportsLegal.of_fault {s t : State} {d : Byte} (h : IsResponse [d]) (h' : IsDiagCode d)
    (hr : t.rspLog = s.rspLog ++ [[d]]) (hd : t.diagLog = s.diagLog ++ [d]) : ReportsLegal s t :=
  .of_append hr hd (by simpa using h) (by simpa using h')

/-- The settle of a write reports a failure and nothing else (R190, R191). -/
theorem ReportsLegal.of_status {s t : State} {status : Status} (hr : t.rspLog = s.rspLog)
    (hd : t.diagLog = s.diagLog ++ (if status = .fail then [0x02] else [])) : ReportsLegal s t :=
  .of_append (answered := []) (by simpa using hr) hd (by simp) (by cases status <;> simp [IsDiagCode])

/-- Taking an input off its port adds no report and changes no register. -/
theorem ReportsOnly.of_inputs (s : State) {req : List (List Byte)} (hreq : req ⊆ s.req) (ready : Bool)
    (settle : List SettleEvent) (ticks : Nat) (schedule : List Arrival) :
    ReportsOnly s { s with ready, req, settle, ticks, schedule } :=
  ⟨.of_eq rfl rfl, rfl, rfl, hreq⟩

theorem ReportsOnly.seq {s t : State} (h : ReportsOnly s t) : t.seq = s.seq := congrArg Registers.seq h.registers

theorem ReportsOnly.busy {s t : State} (h : ReportsOnly s t) : t.busy = s.busy := congrArg Registers.busy h.registers

theorem ReportsOnly.lastHeading {s t : State} (h : ReportsOnly s t) : t.lastHeading = s.lastHeading :=
  congrArg Registers.lastHeading h.registers

theorem ReportsOnly.stopq {s t : State} (h : ReportsOnly s t) : t.stopq = s.stopq :=
  congrArg Registers.stopq h.registers

theorem ReportsOnly.inflightG {s t : State} (h : ReportsOnly s t) : t.inflightG = s.inflightG :=
  congrArg Registers.inflightG h.registers

theorem ReportsOnly.inflightU {s t : State} (h : ReportsOnly s t) : t.inflightU = s.inflightU :=
  congrArg Registers.inflightU h.registers

/-! ## What an operation leaves -/

/-- The command rows of R101 that pass the gate: command id and payload length. -/
def IsGatedRow (cid : Byte) (payload : List Byte) : Prop :=
  (cid = 0x01 ∧ payload.length = 2) ∨ (cid = 0x30 ∧ payload.length = 4) ∨ (cid = 0x20 ∧ payload.length = 4)

/-- The commands that take the gate when it is free (R32). -/
def IsGatedCommand (o : Operation) : Prop :=
  o = .setHeading ∨ o = .roll ∨ o = .stop ∨ o = .setColor ∨ o = .joy

/-- The instruction rolls to a heading: a `ROLL` to it, or a `JOY` whose touch maps to it (R181, R230). -/
def RollsTo (i : Instr) (h : Word16) : Prop :=
  (∃ sp k, i = .roll h sp k) ∨
    ∃ tx ty ox oy radius aim v, i = .joy tx ty ox oy radius aim ∧ mapVector tx ty ox oy radius aim = .ok v ∧
      h = v.heading

/-- What an operation can leave, by its effect on the registers and `TXLOG`. -/
inductive ExecEffect (i : Instr) (s t : State) : Prop
  | reported (h : ReportsOnly s t)
  | numbered (hi : i = .next) (ht : t = { s with seq := s.seq + 1, rspLog := s.rspLog ++ [[0x00, s.seq]] })
  | entered (answer : Byte) (hi : i = .tryEnter)
      (ht : t = { s with busy := true, rspLog := s.rspLog ++ [[0x00, answer]] })
  | left (hi : i = .leave) (ht : t = { s with busy := false, rspLog := s.rspLog ++ [[0x00]] })
  | queued (hi : i = .stop) (hbusy : s.busy = true) (hroom : s.stopq ≠ 255) (ht : t = { s with stopq := s.stopq + 1 })
  | gated (cid : Byte) (payload : List Byte) (h : Word16) (hi : IsGatedCommand i.operation) (hfree : s.busy = false)
      (hrow : IsGatedRow cid payload) (hh : h = s.lastHeading ∨ RollsTo i h)
      (ht : t = { gatedSent cid payload s with lastHeading := h })
  | ungated (b : Byte) (hi : i = .setBackLed b) (ht : t = ungatedSent 0x21 [b] s)

/-- The response of `MAP` has six bytes after the code. -/
theorem MotionVector.bytes_length (v : MotionVector) : v.bytes.length = 6 := rfl

/-- An operation that answers a next state has one of the effects. -/
theorem exec_effect {i : Instr} {s t : State} (h : exec i s = .next t) : ExecEffect i s t := by
  obtain ⟨did, cid, sq, payload, rfl, ⟨hmin, hmax, rfl⟩ | ⟨-, rfl⟩⟩ | ⟨hi, rfl⟩ | ⟨hi, rfl⟩ | ⟨hi, rfl⟩ |
    ⟨tx, ty, ox, oy, radius, aim, rfl, ⟨v, -, rfl⟩ | ⟨-, rfl⟩⟩ | ⟨-, -, hc⟩ := exec_cases h
  · exact .reported
      ⟨.of_answer (.inr (.inr (.inr (.inl ⟨did, cid, sq, payload, hmin, hmax, rfl⟩)))) rfl rfl, rfl, rfl, fun _ h => h⟩
  · exact .reported
      ⟨.of_fault (d := 0x01) (by simp [IsResponse]) (by simp [IsDiagCode]) rfl rfl, rfl, rfl, fun _ h => h⟩
  · exact .numbered hi rfl
  · exact .entered _ hi rfl
  · exact .left hi rfl
  · exact .reported
      ⟨.of_answer (.inr (.inr (.inl ⟨v.bytes, v.bytes_length, rfl⟩))) rfl rfl, rfl, rfl, fun _ h => h⟩
  · exact .reported
      ⟨.of_fault (d := 0x05) (by simp [IsResponse]) (by simp [IsDiagCode]) rfl rfl, rfl, rfl, fun _ h => h⟩
  · obtain ⟨-, -, rfl⟩ | ⟨-, -, -, rfl⟩ | ⟨hi, hb, hq, rfl⟩ | ⟨rfl, hb, rfl⟩ | ⟨x, rfl, hb, rfl⟩ |
      ⟨r, g, b, rfl, hb, rfl⟩ | ⟨b, hi, rfl⟩ | ⟨x, sp, k, rfl, hb, rfl⟩ |
      ⟨tx, ty, ox, oy, radius, aim, v, rfl, hb, hv, rfl⟩ | ⟨tx, ty, ox, oy, aim, rfl, rfl⟩ := hc
    · exact .reported ⟨.of_eq rfl rfl, rfl, rfl, fun _ h => h⟩
    · exact .reported ⟨.of_code (d := 0x06) (by simp [IsDiagCode]) rfl rfl, rfl, rfl, fun _ h => h⟩
    · exact .queued hi hb hq rfl
    · exact .gated 0x30 _ s.lastHeading (by simp [IsGatedCommand, Instr.operation]) hb (by simp [IsGatedRow])
        (.inl rfl) rfl
    · exact .gated 0x01 _ s.lastHeading (by simp [IsGatedCommand, Instr.operation]) hb (by simp [IsGatedRow])
        (.inl rfl) rfl
    · exact .gated 0x20 _ s.lastHeading (by simp [IsGatedCommand, Instr.operation]) hb (by simp [IsGatedRow])
        (.inl rfl) rfl
    · exact .ungated b hi rfl
    · exact .gated 0x30 _ x (by simp [IsGatedCommand, Instr.operation]) hb (by simp [IsGatedRow])
        (.inr (.inl ⟨sp, k, rfl⟩)) rfl
    · exact .gated 0x30 _ v.heading (by simp [IsGatedCommand, Instr.operation]) hb (by simp [IsGatedRow])
        (.inr (.inr ⟨tx, ty, ox, oy, radius, aim, v, rfl, hv, rfl⟩)) rfl
    · exact .reported ⟨.of_code (d := 0x05) (by simp [IsDiagCode]) rfl rfl, rfl, rfl, fun _ h => h⟩

/-- No operation presents a request. -/
theorem exec_requests {i : Instr} {s t : State} (h : exec i s = .next t) : t.req ⊆ s.req := by
  cases exec_effect h with
  | reported hr => exact hr.requests
  | numbered _ ht | entered _ _ ht | left _ ht | queued _ _ _ ht | gated _ _ _ _ _ _ _ ht | ungated _ _ ht =>
    subst ht; exact fun _ h => h

/-- Whatever an operation reports is legal (R104, R251). -/
theorem exec_reportsLegal {i : Instr} {s t : State} (h : exec i s = .next t) : ReportsLegal s t := by
  cases exec_effect h with
  | reported hr => exact hr.toReportsLegal
  | numbered _ ht => subst ht; exact .of_answer (.inr (.inl ⟨s.seq, rfl⟩)) rfl rfl
  | entered answer _ ht => subst ht; exact .of_answer (.inr (.inl ⟨answer, rfl⟩)) rfl rfl
  | left _ ht => subst ht; exact .of_answer (.inl rfl) rfl rfl
  | queued _ _ _ ht | gated _ _ _ _ _ _ _ ht | ungated _ _ ht => subst ht; exact .of_eq rfl rfl

/-- A tick does nothing, or hands over the frame of one waiting stop (R185). -/
theorem tickEvent_cases (s : State) :
    tickEvent Config.bb8 s = s ∨
      (0 < s.stopq ∧ s.busy = false ∧
        tickEvent Config.bb8 s = { stopSent s with stopq := s.stopq - 1 }) := by
  rw [tickEvent_eq]
  split
  case isTrue h => exact .inr ⟨h.1, h.2, rfl⟩
  case isFalse => exact .inl rfl

/-! ## What a step leaves -/

/-- What a step can do: it only takes an input and reports, or with the input taken (`u`) it delivers an operation, a
settle event, a tick or the reset. -/
inductive StepEffect (s t : State) : Prop
  | reported (h : ReportsOnly s t)
  | request (u : State) (p : List Byte) (i : Instr) (hu : ReportsOnly s u) (hturn : s.schedule.head? = some .request)
      (hreq : s.req.head? = some p) (hd : decode p = .instr i) (he : exec i u = .next t)
  | settle (u : State) (e : SettleEvent) (hu : ReportsOnly s u) (hturn : s.schedule.head? = some .settle)
      (hset : s.settle.head? = some e) (he : settleEvent e u = .next t)
  | tick (u : State) (hu : ReportsOnly s u) (hturn : s.schedule.head? = some .tick)
      (ht : t = tickEvent Config.bb8 u)
  | reset (u : State) (hu : ReportsOnly s u) (hturn : s.schedule.head? = some .reset) (ht : t = resetEvent u)

/-- A step that answers a next state has one of the effects. -/
theorem step_effect {s t : State} (h : step s = .next t) : StepEffect s t := by
  obtain ⟨-, rfl⟩ | ⟨a, sch, hsch, hc⟩ := step_cases h
  · exact .reported (.of_inputs t (List.Subset.refl _) ..)
  · have hturn : s.schedule.head? = some a := by rw [hsch, List.head?_cons]
    obtain ⟨-, -, rfl⟩ | ⟨p, rest, why, -, hreq, -, rfl⟩ | ⟨p, rest, i, rfl, hreq, hd, he⟩ | ⟨-, -, rfl⟩ |
      ⟨e, rest, rfl, hset, he⟩ | ⟨-, -, rfl⟩ | ⟨n, rfl, -, rfl⟩ | ⟨level, -, rfl⟩ | ⟨rfl, rfl⟩ := hc
    · exact .reported (.of_inputs s (List.Subset.refl _) ..)
    · exact .reported ⟨.of_fault (d := 0x04) (by simp [IsResponse]) (by simp [IsDiagCode]) rfl rfl, rfl, rfl,
        by simp [hreq]⟩
    · exact .request _ p i (.of_inputs s (by simp [hreq]) ..) hturn (by rw [hreq, List.head?_cons]) hd he
    · exact .reported (.of_inputs s (List.Subset.refl _) ..)
    · exact .settle _ e (.of_inputs s (List.Subset.refl _) ..) hturn (by rw [hset, List.head?_cons]) he
    · exact .reported (.of_inputs s (List.Subset.refl _) ..)
    · exact .tick _ (.of_inputs s (List.Subset.refl _) ..) hturn rfl
    · exact .reported (.of_inputs s (List.Subset.refl _) ..)
    · exact .reset _ (.of_inputs s (List.Subset.refl _) ..) hturn rfl

end Sys2Proof.Machine
end

section
/-! PROOF. Which steps write `BUSY` (spec/10_state.md R32), `LASTHEADING` (R33) and `STOPQ` (R34). Each register has its
rule for operations, then for steps. -/

namespace Sys2Proof.Machine

/-! ## `BUSY` -/

/-- Only `LEAVE` clears the gate among the operations. -/
theorem exec_clears_busy {i : Instr} {s t : State} (h : exec i s = .next t) (hs : s.busy = true)
    (ht : t.busy = false) : i = .leave := by
  cases exec_effect h with
  | reported hr => simp [hr.busy, hs] at ht
  | left hi _ => exact hi
  | numbered _ he | entered _ _ he | queued _ _ _ he | gated _ _ _ _ _ _ _ he | ungated _ _ he =>
    subst he; simp_all

/-- Only `TRYENTER` and the gated commands take the gate among the operations. -/
theorem exec_sets_busy {i : Instr} {s t : State} (h : exec i s = .next t) (hs : s.busy = false)
    (ht : t.busy = true) : i.operation = .tryEnter ∨ IsGatedCommand i.operation := by
  cases exec_effect h with
  | reported hr => simp [hr.busy, hs] at ht
  | entered _ hi _ => exact .inl (hi ▸ rfl)
  | gated _ _ _ hi => exact .inr hi
  | numbered _ he | left _ he | queued _ _ _ he | ungated _ _ he => subst he; simp_all

/-- Settles O16: of the effects of a step, only an operation, a gated settle, a tick and the reset write `BUSY`. -/
theorem busyWriters : Obligations.BusyWriters := by
  intro s t h
  cases step_effect h with
  | reported hr => simp_all [hr.busy]
  | request u p i hu hturn hreq hd he =>
    refine ⟨fun hs ht => ?_, fun hs ht => ?_⟩
    · obtain rfl := exec_clears_busy he (hu.busy.trans hs) ht
      exact .inr (.inr ⟨hturn, p, hreq, hd⟩)
    · exact .inr ⟨hturn, p, i, hreq, hd, exec_sets_busy he (hu.busy.trans hs) ht⟩
  | settle u e hu hturn hset he =>
    obtain ⟨htag, -, rfl⟩ | ⟨-, -, rfl⟩ := settleEvent_next he
    · exact ⟨fun _ _ => .inr (.inl ⟨hturn, e, hset, htag⟩), fun _ ht => by simp at ht⟩
    · simp_all [hu.busy]
  | tick u hu hturn ht =>
    obtain heq | ⟨hq, hb, heq⟩ := tickEvent_cases u
    · simp_all [hu.busy]
    · exact ⟨fun hs => by simp [← hu.busy, hb] at hs, fun _ _ => .inl ⟨hturn, hu.stopq ▸ hq⟩⟩
  | reset u hu hturn ht => exact ⟨fun _ _ => .inl hturn, fun _ hb => by simp [ht] at hb⟩

/-! ## `LASTHEADING` -/

/-- An operation that changes `LASTHEADING` is an admitted roll to the heading it leaves. -/
theorem exec_changes_lastHeading {i : Instr} {s t : State} (h : exec i s = .next t)
    (hne : t.lastHeading ≠ s.lastHeading) : s.busy = false ∧ RollsTo i t.lastHeading := by
  cases exec_effect h with
  | reported hr => exact absurd hr.lastHeading hne
  | gated _ _ _ _ hfree _ hh he => subst he; exact ⟨hfree, hh.resolve_left hne⟩
  | numbered _ he | entered _ _ he | left _ he | queued _ _ _ he | ungated _ _ he => subst he; exact absurd rfl hne

/-- Settles O26: of the effects of a step, only an operation and the reset write `LASTHEADING`. -/
theorem lastHeadingWriters : Obligations.LastHeadingWriters := by
  intro s t h hne
  cases step_effect h with
  | reported hr => exact absurd hr.lastHeading hne
  | request u p i hu hturn hreq hd he =>
    obtain ⟨hb, hroll⟩ := exec_changes_lastHeading he (hu.lastHeading.symm ▸ hne)
    refine .inr ⟨hturn, hu.busy.symm.trans hb, p, hreq, ?_⟩
    obtain ⟨sp, k, rfl⟩ | ⟨tx, ty, ox, oy, radius, aim, v, rfl, hv, hh⟩ := hroll
    · exact .inl ⟨sp, k, hd⟩
    · exact .inr ⟨tx, ty, ox, oy, radius, aim, v, hd, hv, hh⟩
  | settle u e hu _ _ he =>
    obtain ⟨-, -, rfl⟩ | ⟨-, -, rfl⟩ := settleEvent_next he <;> exact absurd hu.lastHeading hne
  | tick u hu _ ht =>
    obtain heq | ⟨-, -, heq⟩ := tickEvent_cases u <;> rw [ht, heq] at hne <;> exact absurd hu.lastHeading hne
  | reset _ _ hturn => exact .inl hturn

/-! ## `STOPQ` -/

/-- An operation that changes `STOPQ` is a `STOP` that found the gate occupied. -/
theorem exec_changes_stopq {i : Instr} {s t : State} (h : exec i s = .next t) (hne : t.stopq ≠ s.stopq) :
    i = .stop ∧ s.busy = true ∧ t.stopq = s.stopq + 1 := by
  cases exec_effect h with
  | reported hr => exact absurd hr.stopq hne
  | queued hi hb _ he => exact ⟨hi, hb, by rw [he]⟩
  | numbered _ he | entered _ _ he | left _ he | gated _ _ _ _ _ _ _ he | ungated _ _ he =>
    subst he; exact absurd rfl hne

/-- Settles O27: of the effects of a step, only a `STOP`, a tick that sends and the reset write `STOPQ`. -/
theorem stopqWriters : Obligations.StopqWriters := by
  intro s t h hne
  cases step_effect h with
  | reported hr => exact absurd hr.stopq hne
  | request u p i hu hturn hreq hd he =>
    obtain ⟨rfl, hb, hq⟩ := exec_changes_stopq he (hu.stopq.symm ▸ hne)
    obtain rfl := eq_of_decode_stop hd
    exact .inr (.inl ⟨hturn, hu.busy.symm.trans hb, hreq, hu.stopq ▸ hq⟩)
  | settle u e hu _ _ he =>
    obtain ⟨-, -, rfl⟩ | ⟨-, -, rfl⟩ := settleEvent_next he <;> exact absurd hu.stopq hne
  | tick u hu hturn ht =>
    obtain heq | ⟨hq, hb, heq⟩ := tickEvent_cases u <;> rw [ht, heq] at hne ⊢
    · exact absurd hu.stopq hne
    · refine .inr (.inr ⟨hturn, hu.busy.symm.trans hb, ?_, ?_⟩)
      · rw [← hu.stopq]; exact Nat.sub_add_cancel hq
      · simp [hu.txLog, hu.seq, hu.lastHeading]
  | reset _ _ hturn => exact .inl hturn

end Sys2Proof.Machine
end

section
/-! PROOF. What is handed over and what is in flight (spec/10_state.md R35), and the traces every run keeps legal (R34,
R101, R104, R251). -/

namespace Sys2Proof.Machine

/-- From `s` to `t` the writes `sent` are handed over: commands' frames, each counted in flight under its tag. -/
structure Sends (s t : State) (sent : List TxWrite) : Prop where
  txLog : t.txLog = s.txLog ++ sent
  writes : ∀ w ∈ sent, IsCommandWrite w
  inflight : ∀ tag, t.inflight tag = s.inflight tag + countTag tag sent

/-- Nothing is handed over where `TXLOG` and the counters stay. -/
theorem Sends.nothing {s t : State} (htx : t.txLog = s.txLog) (hi : ∀ tag, t.inflight tag = s.inflight tag) :
    Sends s t [] :=
  ⟨by simpa using htx, by simp, hi⟩

/-- Nothing is handed over where only reports are added. -/
theorem ReportsOnly.sends_nothing {s t : State} (h : ReportsOnly s t) : Sends s t [] :=
  .nothing h.txLog fun
    | .G => h.inflightG
    | .U => h.inflightU

/-- A gated row's frame is one gated write of a command, whatever else is written to `LASTHEADING` and `STOPQ`. -/
theorem sends_gatedSent {cid : Byte} {payload : List Byte} (hrow : IsGatedRow cid payload) (s : State) (h : Word16)
    (q : Nat) :
    Sends s { gatedSent cid payload s with lastHeading := h, stopq := q } [⟨.G, wireFrame 0x02 cid s.seq payload⟩] := by
  refine ⟨rfl, ?_, fun tag => by cases tag <;> rfl⟩
  rw [List.forall_mem_singleton]
  obtain ⟨rfl, hl⟩ | ⟨rfl, hl⟩ | ⟨rfl, hl⟩ := hrow
  · exact ⟨_, _, .inl ⟨rfl, hl⟩⟩
  · exact ⟨_, _, .inr (.inl ⟨rfl, hl⟩)⟩
  · exact ⟨_, _, .inr (.inr (.inl ⟨rfl, hl⟩))⟩

/-- The back-LED frame is one ungated write. -/
theorem sends_ungatedSent (b : Byte) (s : State) :
    Sends s (ungatedSent 0x21 [b] s) [⟨.U, wireFrame 0x02 0x21 s.seq [b]⟩] := by
  refine ⟨rfl, ?_, fun tag => by cases tag <;> rfl⟩
  rw [List.forall_mem_singleton]
  exact ⟨_, _, .inr (.inr (.inr ⟨rfl, rfl⟩))⟩

/-- The payload of a stop is that of the roll row. -/
theorem isGatedRow_stop (s : State) :
    IsGatedRow 0x30 [100, highByte s.lastHeading, lowByte s.lastHeading, 0] := by
  simp [IsGatedRow]

/-- Every operation counts what it hands over. -/
theorem exec_sends {i : Instr} {s t : State} (h : exec i s = .next t) : ∃ sent, Sends s t sent := by
  cases exec_effect h with
  | reported hr => exact ⟨_, hr.sends_nothing⟩
  | gated _ _ heading _ _ hrow _ he => subst he; exact ⟨_, sends_gatedSent hrow s heading s.stopq⟩
  | ungated b _ he => subst he; exact ⟨_, sends_ungatedSent b s⟩
  | numbered _ he | entered _ _ he | left _ he | queued _ _ _ he =>
    subst he; exact ⟨_, .nothing rfl fun tag => by cases tag <;> rfl⟩

/-- A tick counts what it hands over. -/
theorem tickEvent_sends (s : State) : ∃ sent, Sends s (tickEvent Config.bb8 s) sent := by
  obtain heq | ⟨-, -, heq⟩ := tickEvent_cases s <;> rw [heq]
  · exact ⟨_, .nothing rfl fun _ => rfl⟩
  · exact ⟨_, sends_gatedSent (isGatedRow_stop s) s s.lastHeading (s.stopq - 1)⟩

/-- A settle event takes one off the counter of its tag and sends nothing (R190, R191). -/
theorem settleEvent_inflight {e : SettleEvent} {s t : State} (h : settleEvent e s = .next t) (tag : Tag) :
    t.txLog = s.txLog ∧ t.inflight tag + (if e.tag = tag then 1 else 0) = s.inflight tag := by
  obtain ⟨htag, hpos, rfl⟩ | ⟨htag, hpos, rfl⟩ := settleEvent_next h <;> cases tag <;>
    simp [htag, State.inflight, Nat.sub_add_cancel hpos]

/-- Settles O34: operations, ticks and settle events each keep the count. -/
theorem inFlightCountsWrites : Obligations.InFlightCountsWrites := by
  refine ⟨fun i s t tag h => ?_, fun s tag => ?_, fun e s t tag h => settleEvent_inflight h tag⟩
  · obtain ⟨sent, hs⟩ := exec_sends h
    exact ⟨sent, hs.txLog, hs.inflight tag⟩
  · obtain ⟨sent, hs⟩ := tickEvent_sends s
    exact ⟨sent, hs.txLog, hs.inflight tag⟩

/-! ## Legal traces -/

/-- Traces that grow by legal writes and reports stay legal while the counters stay within what is handed over. -/
theorem TracesLegal.extend {s t : State} {sent : List TxWrite} (hs : TracesLegal s) (hq : t.stopq ≤ 255)
    (hr : ReportsLegal s t) (htx : t.txLog = s.txLog ++ sent) (hw : ∀ w ∈ sent, IsCommandWrite w)
    (hi : ∀ tag, t.inflight tag ≤ s.inflight tag + countTag tag sent) : TracesLegal t where
  stopq_range := hq
  writes w h := (List.mem_append.1 (htx ▸ h)).elim (hs.writes w) (hw w)
  responses r h := (hr.answers r h).elim (hs.responses r) id
  diagnostics d h := (hr.codes d h).elim (hs.diagnostics d) id
  inflight_le tag := by
    have hcount : countTag tag t.txLog = countTag tag s.txLog + countTag tag sent := by
      rw [htx]; exact List.countP_append
    have := hs.inflight_le tag
    have := hi tag
    omega

/-- Steps that count what they hand over and report legally keep the traces legal. -/
theorem TracesLegal.of_sends {s t : State} {sent : List TxWrite} (hs : TracesLegal s) (hq : t.stopq ≤ 255)
    (hr : ReportsLegal s t) (h : Sends s t sent) : TracesLegal t :=
  hs.extend hq hr h.txLog h.writes fun tag => (h.inflight tag).le

/-- Reports alone keep the traces legal. -/
theorem TracesLegal.of_reportsOnly {s t : State} (hs : TracesLegal s) (h : ReportsOnly s t) : TracesLegal t :=
  hs.of_sends (h.stopq.trans_le hs.stopq_range) h.toReportsLegal h.sends_nothing

/-- No operation takes `STOPQ` past 255 (R34, R183). -/
theorem exec_stopq_range {i : Instr} {s t : State} (h : exec i s = .next t) (hs : s.stopq ≤ 255) : t.stopq ≤ 255 := by
  cases exec_effect h with
  | reported hr => exact hr.stopq.trans_le hs
  | queued _ _ hroom he => subst he; exact Nat.lt_of_le_of_ne hs hroom
  | numbered _ he | entered _ _ he | left _ he | gated _ _ _ _ _ _ _ he | ungated _ _ he => subst he; exact hs

/-- An operation keeps the traces legal. -/
theorem TracesLegal.of_exec {i : Instr} {s t : State} (hs : TracesLegal s) (h : exec i s = .next t) :
    TracesLegal t := by
  obtain ⟨sent, hsent⟩ := exec_sends h
  exact hs.of_sends (exec_stopq_range h hs.stopq_range) (exec_reportsLegal h) hsent

/-- A tick keeps the traces legal. -/
theorem TracesLegal.of_tickEvent {s : State} (hs : TracesLegal s) : TracesLegal (tickEvent Config.bb8 s) := by
  obtain ⟨sent, hsent⟩ := tickEvent_sends s
  obtain heq | ⟨-, -, heq⟩ := tickEvent_cases s <;> rw [heq] at hsent ⊢
  · exact hs
  · exact hs.of_sends ((Nat.sub_le _ _).trans hs.stopq_range) (.of_eq rfl rfl) hsent

/-- A settle event keeps the traces legal. -/
theorem TracesLegal.of_settleEvent {e : SettleEvent} {s t : State} (hs : TracesLegal s)
    (h : settleEvent e s = .next t) : TracesLegal t := by
  have hi (tag : Tag) : t.inflight tag ≤ s.inflight tag := by have := (settleEvent_inflight h tag).2; omega
  obtain ⟨-, -, rfl⟩ | ⟨-, -, rfl⟩ := settleEvent_next h <;>
    exact hs.extend hs.stopq_range (.of_status rfl rfl) (List.append_nil _).symm (by simp) hi

/-- The traces are legal after a reset. -/
theorem tracesLegal_resetEvent (s : State) : TracesLegal (resetEvent s) :=
  ⟨by simp, by simp, by simp, by simp, fun tag => by cases tag <;> simp [State.inflight]⟩

/-- Settles O54: at reset every trace is empty and every counter 0. -/
theorem tracesLegalAtReset : Obligations.TracesLegalAtReset := tracesLegal_resetEvent State.reset

/-- Settles O53: each effect of a step keeps the invariant. -/
theorem tracesStayLegal : Obligations.TracesStayLegal := by
  intro s t hs h
  cases step_effect h with
  | reported hr => exact hs.of_reportsOnly hr
  | request _ _ _ hu _ _ _ he => exact (hs.of_reportsOnly hu).of_exec he
  | settle _ _ hu _ _ he => exact (hs.of_reportsOnly hu).of_settleEvent he
  | tick _ hu _ ht => subst ht; exact (hs.of_reportsOnly hu).of_tickEvent
  | reset u _ _ ht => subst ht; exact tracesLegal_resetEvent u

end Sys2Proof.Machine
end

section
/-! PROOF. Single flight and sequence continuity under a host that issues commands only (spec/10_state.md R40). -/

namespace Sys2Proof.Machine

/-! ## The host -/

/-- No step presents a request. -/
theorem step_requests {s t : State} (h : step s = .next t) : t.req ⊆ s.req := by
  cases step_effect h with
  | reported hr => exact hr.requests
  | request _ _ _ hu _ _ _ he => exact List.Subset.trans (exec_requests he) hu.requests
  | settle _ _ hu _ _ he =>
    obtain ⟨-, -, rfl⟩ | ⟨-, -, rfl⟩ := settleEvent_next he <;> exact hu.requests
  | tick u hu _ ht =>
    obtain heq | ⟨-, -, heq⟩ := tickEvent_cases u <;> rw [ht, heq] <;> exact hu.requests
  | reset _ hu _ ht => subst ht; exact hu.requests

/-- A host that issued commands only still has, after a step. -/
theorem CommandsOnly.of_step {s t : State} (hs : CommandsOnly s) (h : step s = .next t) : CommandsOnly t :=
  fun p hp => hs p (step_requests h hp)

/-! ## The invariant -/

/-- The sequence byte of a wire frame is its byte 4 (R91). -/
theorem wireFrame_getElem?_four (did cid sq : Byte) (payload : List Byte) :
    (wireFrame did cid sq payload)[4]? = some sq := rfl

/-- A frame that carries `SEQ`, with `SEQ` advanced, continues the sequence (R40 (c), (d)). -/
theorem SingleFlight.of_nextFrame {s t : State} {tag : Tag} {did cid : Byte} {payload : List Byte} (hs : SingleFlight s)
    (hone : t.inflightG ≤ 1) (hbusy : t.busy = true ↔ t.inflightG = 1) (hseq : t.seq = s.seq + 1)
    (htx : t.txLog = s.txLog ++ [⟨tag, wireFrame did cid s.seq payload⟩]) : SingleFlight t where
  at_most_one := hone
  busy_iff := hbusy
  seq_counts := by
    rw [hseq, htx, hs.seq_counts, List.length_append, List.length_singleton, BitVec.ofNat_add]
    rfl
  seq_bytes k w hk := by
    rw [htx, List.getElem?_append] at hk
    split at hk
    case isTrue => exact hs.seq_bytes k w hk
    case isFalse hlen =>
      obtain ⟨hk0, rfl⟩ : k - s.txLog.length = 0 ∧ _ = w := by simpa [List.getElem?_singleton] using hk
      obtain rfl : k = s.txLog.length := by omega
      rw [wireFrame_getElem?_four, hs.seq_counts]

/-- Reports alone keep the invariant. -/
theorem SingleFlight.of_reportsOnly {s t : State} (hs : SingleFlight s) (h : ReportsOnly s t) : SingleFlight t where
  at_most_one := h.inflightG ▸ hs.at_most_one
  busy_iff := by rw [h.busy, h.inflightG, hs.busy_iff]
  seq_counts := by rw [h.seq, h.txLog, hs.seq_counts]
  seq_bytes := h.txLog ▸ hs.seq_bytes

/-- With the gate free no gated write is in flight. -/
theorem SingleFlight.inflightG_of_free {s : State} (hs : SingleFlight s) (hfree : s.busy = false) :
    s.inflightG = 0 := by
  have := hs.at_most_one
  have : s.inflightG ≠ 1 := fun h => by simp [hs.busy_iff.2 h] at hfree
  omega

/-- A gated frame sent with the gate free is the one gated write in flight. -/
theorem SingleFlight.of_gatedSent {s : State} (hs : SingleFlight s) (hfree : s.busy = false) (cid : Byte)
    (payload : List Byte) (h : Word16) (q : Nat) :
    SingleFlight { gatedSent cid payload s with lastHeading := h, stopq := q } := by
  have h0 := hs.inflightG_of_free hfree
  exact hs.of_nextFrame (by simp [h0]) (by simp [h0]) rfl rfl

/-- An operation other than `NEXT`, `TRYENTER` and `LEAVE` keeps the invariant. -/
theorem SingleFlight.of_exec {i : Instr} {s t : State} (hs : SingleFlight s)
    (hi : i.operation.changesUnitState = false) (h : exec i s = .next t) : SingleFlight t := by
  cases exec_effect h with
  | reported hr => exact hs.of_reportsOnly hr
  | numbered hop | entered _ hop | left hop => subst hop; cases hi
  | queued _ _ _ he => subst he; exact { hs with }
  | gated cid payload heading _ hfree _ _ he => subst he; exact hs.of_gatedSent hfree cid payload heading s.stopq
  | ungated b _ he => subst he; exact hs.of_nextFrame hs.at_most_one hs.busy_iff rfl rfl

/-- A tick keeps the invariant: a stop is sent with the gate free only. -/
theorem SingleFlight.of_tickEvent {s : State} (hs : SingleFlight s) : SingleFlight (tickEvent Config.bb8 s) := by
  obtain heq | ⟨-, hfree, heq⟩ := tickEvent_cases s <;> rw [heq]
  · exact hs
  · exact hs.of_gatedSent hfree 0x30 _ s.lastHeading (s.stopq - 1)

/-- A settle event keeps the invariant: the one gated write settles and the gate is left. -/
theorem SingleFlight.of_settleEvent {e : SettleEvent} {s t : State} (hs : SingleFlight s)
    (h : settleEvent e s = .next t) : SingleFlight t := by
  obtain ⟨-, hpos, rfl⟩ | ⟨-, -, rfl⟩ := settleEvent_next h
  · have := hs.at_most_one
    exact { hs with at_most_one := by simp; omega, busy_iff := by simp; omega }
  · exact { hs with }

/-- The invariant holds after a reset. -/
theorem singleFlight_resetEvent (s : State) : SingleFlight (resetEvent s) :=
  ⟨by simp, by simp, by simp, by simp⟩

/-- A step of a commands-only host keeps the invariant. -/
theorem SingleFlight.of_step {s t : State} (hs : SingleFlight s) (hc : CommandsOnly s) (h : step s = .next t) :
    SingleFlight t := by
  cases step_effect h with
  | reported hr => exact hs.of_reportsOnly hr
  | request _ p i hu _ hreq hd he =>
    exact (hs.of_reportsOnly hu).of_exec (hc p (List.mem_of_head? hreq) i hd) he
  | settle _ _ hu _ _ he => exact (hs.of_reportsOnly hu).of_settleEvent he
  | tick _ hu _ ht => subst ht; exact (hs.of_reportsOnly hu).of_tickEvent
  | reset u _ _ ht => subst ht; exact singleFlight_resetEvent u

/-- Settles O50: the premise on the host and the invariant are each kept. -/
theorem singleFlightKept : Obligations.SingleFlightKept :=
  fun _ _ hc hs h => ⟨hc.of_step h, hs.of_step hc h⟩

/-- Settles O51: at reset nothing is presented, nothing in flight and the gate free. -/
theorem singleFlightAtReset : Obligations.SingleFlightAtReset :=
  ⟨fun _ hp => absurd hp List.not_mem_nil, singleFlight_resetEvent State.reset⟩

/-! ## Frames of a run -/

/-- An operation that appends a gated frame found the gate free (R77). -/
theorem free_of_exec_sends_gated {i : Instr} {s t : State} {f : List Byte} (h : exec i s = .next t)
    (htx : t.txLog = s.txLog ++ [⟨.G, f⟩]) : s.busy = false := by
  cases exec_effect h with
  | reported hr => simp [hr.txLog] at htx
  | gated _ _ _ _ hfree => exact hfree
  | numbered _ he | entered _ _ he | left _ he | queued _ _ _ he | ungated _ _ he => subst he; simp at htx

/-- A step that appends a gated frame found the gate free (R77), whatever the host. -/
theorem free_of_step_sends_gated {s t : State} {f : List Byte} (h : step s = .next t)
    (htx : t.txLog = s.txLog ++ [⟨.G, f⟩]) : s.busy = false := by
  cases step_effect h with
  | reported hr => simp [hr.txLog] at htx
  | request _ _ _ hu _ _ _ he =>
    exact hu.busy.symm.trans (free_of_exec_sends_gated he (hu.txLog.symm ▸ htx))
  | settle _ _ hu _ _ he => simp [(settleEvent_inflight he .G).1, hu.txLog] at htx
  | tick u hu _ ht =>
    obtain heq | ⟨-, hfree, -⟩ := tickEvent_cases u
    · simp [ht, heq, hu.txLog] at htx
    · exact hu.busy.symm.trans hfree
  | reset _ _ _ ht => simp [ht] at htx

/-- Settles O52: the invariant holds along the run, and the frame's sequence byte is read off the state it leads to. -/
theorem gatedFramesOneAtATime : Obligations.GatedFramesOneAtATime := by
  intro k s t u f hc hs hrun hstep htx
  obtain ⟨hct, hst⟩ : CommandsOnly t ∧ SingleFlight t :=
    run_keeps (P := fun s => CommandsOnly s ∧ SingleFlight s) (fun s t hP => singleFlightKept s t hP.1 hP.2)
      ⟨hc, hs⟩ hrun
  have hfree := free_of_step_sends_gated hstep htx
  exact ⟨hst.inflightG_of_free hfree, hfree, (hst.of_step hct hstep).seq_bytes t.txLog.length ⟨.G, f⟩ (by simp [htx])⟩

/-! ## Reset -/

/-- Settles O47: the reset state is given field by field. -/
theorem resetValues : Obligations.ResetValues := ⟨rfl, rfl, rfl, rfl⟩

end Sys2Proof.Machine
end

section
/-! PROOF. The ports of the block (spec/20_memory.md): what a step puts on `TX`, `RSP` and `DIAG` (R63, R64, R67, R72),
and what it takes from `REQ`, `SETTLE` and `TICK` (R62, R275) and from the level `READY` (R68). -/

namespace Sys2Proof.Machine

/-! ## What an input puts on the ports -/

/-- The list `l'` is the list `l` followed by at most one entry. -/
def AddsAtMostOne {α : Type} (l l' : List α) : Prop := ∃ added, l' = l ++ added ∧ added.length ≤ 1

theorem AddsAtMostOne.none {α : Type} {l : List α} : AddsAtMostOne l l := ⟨[], (List.append_nil l).symm, Nat.zero_le 1⟩

theorem AddsAtMostOne.one {α : Type} {l : List α} {a : α} : AddsAtMostOne l (l ++ [a]) := ⟨[a], rfl, Nat.le_refl 1⟩

/-- What the environment presents (R62, R65, R66, R68), and the turns to come. -/
structure Inputs where
  ready : Bool
  req : List (List Byte)
  settle : List SettleEvent
  ticks : Nat
  schedule : List Arrival

/-- The inputs of a state. -/
def State.inputs (s : State) : Inputs := ⟨s.ready, s.req, s.settle, s.ticks, s.schedule⟩

/-- From `s` to `t` the inputs stay, and the traces grow by at most one frame, `n` responses and at most one code. -/
structure Emits (n : Nat) (s t : State) : Prop where
  inputs : t.inputs = s.inputs
  frames : AddsAtMostOne s.txLog t.txLog
  answers : ∃ answered, t.rspLog = s.rspLog ++ answered ∧ answered.length = n
  codes : AddsAtMostOne s.diagLog t.diagLog

theorem Emits.nothing (s : State) : Emits 0 s s :=
  ⟨rfl, .none, ⟨[], (List.append_nil _).symm, rfl⟩, .none⟩

/-- An input that leaves the response trace as it is. -/
theorem Emits.of_unanswered {s t : State} (h : t.inputs = s.inputs) (hf : AddsAtMostOne s.txLog t.txLog)
    (hr : t.rspLog = s.rspLog) (hc : AddsAtMostOne s.diagLog t.diagLog) : Emits 0 s t :=
  ⟨h, hf, ⟨[], by simpa using hr, rfl⟩, hc⟩

/-- An input that adds one response. -/
theorem Emits.of_answered {s t : State} {r : List Byte} (h : t.inputs = s.inputs) (hf : AddsAtMostOne s.txLog t.txLog)
    (hr : t.rspLog = s.rspLog ++ [r]) (hc : AddsAtMostOne s.diagLog t.diagLog) : Emits 1 s t :=
  ⟨h, hf, ⟨[r], hr, rfl⟩, hc⟩

/-- An operation answers once when it is a unit operation, and not at all when it is a command (R63). -/
theorem exec_emits {i : Instr} {s t : State} (h : exec i s = .next t) :
    Emits (if i.operation.isCommand then 0 else 1) s t := by
  obtain ⟨did, cid, sq, payload, rfl, ⟨-, -, rfl⟩ | ⟨-, rfl⟩⟩ | ⟨rfl, rfl⟩ | ⟨rfl, rfl⟩ | ⟨rfl, rfl⟩ |
    ⟨tx, ty, ox, oy, radius, aim, rfl, ⟨v, -, rfl⟩ | ⟨-, rfl⟩⟩ | ⟨hcommand, -, hc⟩ := exec_cases h
  · exact .of_answered rfl .none rfl .none
  · exact .of_answered rfl .none rfl .one
  · exact .of_answered rfl .none rfl .none
  · exact .of_answered rfl .none rfl .none
  · exact .of_answered rfl .none rfl .none
  · exact .of_answered rfl .none rfl .none
  · exact .of_answered rfl .none rfl .one
  · rw [if_pos hcommand]
    obtain ⟨-, -, rfl⟩ | ⟨-, -, -, rfl⟩ | ⟨-, -, -, rfl⟩ | ⟨-, -, rfl⟩ | ⟨_, -, -, rfl⟩ | ⟨_, _, _, -, -, rfl⟩ |
      ⟨_, -, rfl⟩ | ⟨_, _, _, -, -, rfl⟩ | ⟨_, _, _, _, _, _, _, -, -, -, rfl⟩ | ⟨_, _, _, _, _, -, rfl⟩ := hc
    · exact .nothing _
    · exact .of_unanswered rfl .none rfl .one
    · exact .of_unanswered rfl .none rfl .none
    · exact .of_unanswered rfl .one rfl .none
    · exact .of_unanswered rfl .one rfl .none
    · exact .of_unanswered rfl .one rfl .none
    · exact .of_unanswered rfl .one rfl .none
    · exact .of_unanswered rfl .one rfl .none
    · exact .of_unanswered rfl .one rfl .none
    · exact .of_unanswered rfl .none rfl .one

/-- A settle event reports at most its failure (R190, R191). -/
theorem settleEvent_emits {e : SettleEvent} {s t : State} (h : settleEvent e s = .next t) : Emits 0 s t := by
  have hcodes : AddsAtMostOne s.diagLog (s.diagLog ++ (if e.status = .fail then [0x02] else [])) :=
    ⟨_, rfl, by split <;> simp⟩
  obtain ⟨-, -, rfl⟩ | ⟨-, -, rfl⟩ := settleEvent_next h <;>
    exact .of_unanswered rfl .none rfl hcodes

/-- A tick sends at most one frame (R185). -/
theorem tickEvent_emits (s : State) : Emits 0 s (tickEvent Config.bb8 s) := by
  obtain heq | ⟨-, -, heq⟩ := tickEvent_cases s <;> rw [heq]
  · exact .nothing s
  · exact .of_unanswered rfl .one rfl .none

/-- An illegal packet raises its fault and does nothing else (R108). -/
theorem handlePacket_of_decode_illegal {p : List Byte} {why : IllegalReason} (h : decode p = .illegal why)
    (s : State) : handlePacket p s = .next (raiseFault .illegalPacket .illegalOp s) := by
  simp only [handlePacket, h]

/-- Settles O25: the count of responses of an operation, read as the entries they are. -/
theorem responsesPerOperation : Obligations.ResponsesPerOperation := by
  refine ⟨fun i s t h hunit => ?_, fun i s t h hcommand => ?_, fun p s why hd => ?_⟩
  · obtain ⟨answered, hr, hlen⟩ := (exec_emits h).answers
    obtain ⟨r, rfl⟩ := List.length_eq_one_iff.1 (by simpa [hunit] using hlen)
    exact ⟨r, hr⟩
  · obtain ⟨answered, hr, hlen⟩ := (exec_emits h).answers
    obtain rfl : answered = [] := by simpa [hcommand] using hlen
    simpa using hr
  · exact ⟨_, handlePacket_of_decode_illegal hd s, rfl⟩

/-! ## What a step takes from the ports -/

/-- The state with its next turn consumed, and with it the oldest input of the stream the turn names, or the level the
turn carries. -/
def State.taken (s : State) (sch : List Arrival) : Arrival → State
  | .request => { s with schedule := sch, req := s.req.tail }
  | .settle => { s with schedule := sch, settle := s.settle.tail }
  | .tick => { s with schedule := sch, ticks := s.ticks - 1 }
  | .ready level => { s with schedule := sch, ready := level }
  | .reset => { s with schedule := sch }

theorem State.taken_request {s : State} {sch : List Arrival} {rest : List (List Byte)} (h : s.req.tail = rest) :
    s.taken sch .request = { s with schedule := sch, req := rest } := by rw [State.taken, h]

theorem State.taken_settle {s : State} {sch : List Arrival} {rest : List SettleEvent} (h : s.settle.tail = rest) :
    s.taken sch .settle = { s with schedule := sch, settle := rest } := by rw [State.taken, h]

theorem State.taken_tick {s : State} {sch : List Arrival} {n : Nat} (h : s.ticks - 1 = n) :
    s.taken sch .tick = { s with schedule := sch, ticks := n } := by rw [State.taken, h]

/-- Taking an input adds nothing to a trace. -/
theorem State.taken_traces (s : State) (sch : List Arrival) (a : Arrival) :
    (s.taken sch a).txLog = s.txLog ∧ (s.taken sch a).rspLog = s.rspLog ∧ (s.taken sch a).diagLog = s.diagLog := by
  cases a <;> exact ⟨rfl, rfl, rfl⟩

/-- A step is idle, or takes its input and is a reset or puts at most one entry on each output port. -/
theorem step_emits {s t : State} (h : step s = .next t) :
    (s.schedule = [] ∧ t = s) ∨
    ∃ a sch, s.schedule = a :: sch ∧
      ((a = .reset ∧ t = resetEvent (s.taken sch a)) ∨ ∃ n ≤ 1, Emits n (s.taken sch a) t) := by
  obtain hidle | ⟨a, sch, hsch, hc⟩ := step_cases h
  · exact .inl hidle
  · refine .inr ⟨a, sch, hsch, ?_⟩
    obtain ⟨rfl, hreq, rfl⟩ | ⟨p, rest, why, rfl, hreq, -, rfl⟩ | ⟨p, rest, i, rfl, hreq, -, he⟩ |
      ⟨rfl, hset, rfl⟩ | ⟨e, rest, rfl, hset, he⟩ | ⟨rfl, hticks, rfl⟩ | ⟨n, rfl, hticks, rfl⟩ | ⟨level, rfl, rfl⟩ |
      ⟨rfl, rfl⟩ := hc
    · rw [State.taken_request (rest := s.req) (by rw [hreq, List.tail_nil])]
      exact .inr ⟨0, Nat.zero_le 1, .nothing _⟩
    · rw [State.taken_request (rest := rest) (by rw [hreq, List.tail_cons])]
      exact .inr ⟨1, Nat.le_refl 1, .of_answered rfl .none rfl .one⟩
    · rw [State.taken_request (rest := rest) (by rw [hreq, List.tail_cons])]
      exact .inr ⟨_, by split <;> decide, exec_emits he⟩
    · rw [State.taken_settle (rest := s.settle) (by rw [hset, List.tail_nil])]
      exact .inr ⟨0, Nat.zero_le 1, .nothing _⟩
    · rw [State.taken_settle (rest := rest) (by rw [hset, List.tail_cons])]
      exact .inr ⟨0, Nat.zero_le 1, settleEvent_emits he⟩
    · rw [State.taken_tick (n := s.ticks) (by rw [hticks])]
      exact .inr ⟨0, Nat.zero_le 1, .nothing _⟩
    · rw [State.taken_tick (n := n) (by rw [hticks, Nat.add_sub_cancel])]
      exact .inr ⟨0, Nat.zero_le 1, tickEvent_emits _⟩
    · exact .inr ⟨0, Nat.zero_le 1, .nothing _⟩
    · exact .inl ⟨rfl, rfl⟩

/-- Settles O29: an idle step adds nothing, and every other step that is no reset adds what its input emits. -/
theorem stepOutputsAtMostOne : Obligations.StepOutputsAtMostOne := by
  intro s t h hreset
  obtain ⟨-, rfl⟩ | ⟨a, sch, hsch, ⟨rfl, -⟩ | ⟨n, hn, he⟩⟩ := step_emits h
  · exact ⟨[], [], [], by simp⟩
  · simp [hsch] at hreset
  · obtain ⟨sent, htx, hsent⟩ := he.frames
    obtain ⟨answered, hrsp, hanswered⟩ := he.answers
    obtain ⟨reported, hdiag, hreported⟩ := he.codes
    obtain ⟨hstx, hsrsp, hsdiag⟩ := s.taken_traces sch a
    exact ⟨sent, answered, reported, hstx ▸ htx, hsrsp ▸ hrsp, hsdiag ▸ hdiag, hsent, hanswered.trans_le hn, hreported⟩

/-- A step with a turn to come takes that turn's input and leaves every other input. -/
theorem step_inputs {s t : State} {a : Arrival} {sch : List Arrival} (hsch : s.schedule = a :: sch)
    (h : step s = .next t) : t.inputs = (s.taken sch a).inputs := by
  obtain ⟨hnil, -⟩ | ⟨a', sch', hsch', hc⟩ := step_emits h
  · cases hnil.symm.trans hsch
  · obtain ⟨rfl, rfl⟩ := List.cons.inj (hsch'.symm.trans hsch)
    obtain ⟨-, rfl⟩ | ⟨n, -, he⟩ := hc
    · rfl
    · exact he.inputs

/-- Settles O44: the inputs after a step, arrival by arrival. -/
theorem streamsKeepTheirOrder : Obligations.StreamsKeepTheirOrder := by
  intro s t a sch hsch h
  have hin := step_inputs hsch h
  cases a <;> exact ⟨congrArg Inputs.schedule hin, congrArg Inputs.req hin, congrArg Inputs.settle hin,
    congrArg Inputs.ticks hin, congrArg Inputs.ready hin⟩

/-! ## The level `READY` -/

/-- Settles O24: each of the six commands is its body under `whenReady`. -/
theorem commandsNeedReady : Obligations.CommandsNeedReady := by
  intro i s hcommand hready
  cases i with
  | build | next | tryEnter | leave | map => cases hcommand
  | setHeading | roll | stop | setColor | setBackLed | joy => exact whenReady_notReady _ hready

/-- Settles O55: the turn is consumed, and the arrival of the level writes `READY` alone. -/
theorem readyChangeOnlySetsLevel : Obligations.ReadyChangeOnlySetsLevel := by
  intro s level sch hsch
  rw [step_of_schedule_cons hsch]
  rfl

end Sys2Proof.Machine
end

section
/-! PROOF. The request packet: its decoder and its encoder agree (spec/30_encoding.md R95 to R97, R100). Each operand
format is read from exactly the bytes its encoder writes; so is each operation, and so is the packet. -/

namespace Sys2Proof

/-! ## Operand formats -/

/-- Format `Z` is read from no operand bytes. -/
theorem decodeZ_eq_instr {j i : Instr} {rest : List Byte} : decodeZ j rest = .instr i ↔ [] = rest ∧ j = i := by
  constructor
  · intro h
    obtain rfl := eq_nil_of_decodeZ h
    cases h
    exact ⟨rfl, rfl⟩
  · rintro ⟨rfl, rfl⟩
    rfl

/-- Format `B` is read from one operand byte. -/
theorem decodeB_eq_instr {k : Byte → Instr} {rest : List Byte} {i : Instr} :
    decodeB k rest = .instr i ↔ ∃ b, [b] = rest ∧ k b = i := by
  constructor
  · intro h
    unfold decodeB at h
    split at h <;> cases h
    exact ⟨_, rfl, rfl⟩
  · rintro ⟨b, rfl, rfl⟩
    rfl

/-- Format `H` is read from one big-endian word. -/
theorem decodeH_eq_instr {k : Word16 → Instr} {rest : List Byte} {i : Instr} :
    decodeH k rest = .instr i ↔ ∃ h, be16 h = rest ∧ k h = i := by
  constructor
  · intro h
    unfold decodeH at h
    split at h <;> cases h
    exact ⟨_, be16_word16 .., rfl⟩
  · rintro ⟨h, rfl, rfl⟩
    simp [decodeH, be16_eq, word16_bytes]

/-- Format `C` is read from three operand bytes. -/
theorem decodeC_eq_instr {k : Byte → Byte → Byte → Instr} {rest : List Byte} {i : Instr} :
    decodeC k rest = .instr i ↔ ∃ r g b, [r, g, b] = rest ∧ k r g b = i := by
  constructor
  · intro h
    unfold decodeC at h
    split at h <;> cases h
    exact ⟨_, _, _, rfl, rfl⟩
  · rintro ⟨r, g, b, rfl, rfl⟩
    rfl

/-- Format `R` is read from one big-endian word and two bytes. -/
theorem decodeR_eq_instr {k : Word16 → Byte → Byte → Instr} {rest : List Byte} {i : Instr} :
    decodeR k rest = .instr i ↔ ∃ h s r, be16 h ++ [s, r] = rest ∧ k h s r = i := by
  constructor
  · intro h
    unfold decodeR at h
    split at h <;> cases h
    exact ⟨_, _, _, by rw [be16_word16]; rfl, rfl⟩
  · rintro ⟨h, s, r, rfl, rfl⟩
    simp [decodeR, be16_eq, word16_bytes]

/-- Format `T` is read from an `aim` byte of 0x00 or 0x01 and five big-endian words. -/
theorem decodeT_eq_instr {k : Word16 → Word16 → Word16 → Word16 → Word16 → Bool → Instr} {rest : List Byte}
    {i : Instr} :
    decodeT k rest = .instr i ↔
      ∃ tx ty ox oy radius aim, encodeT tx ty ox oy radius aim = rest ∧ k tx ty ox oy radius aim = i := by
  constructor
  · intro h
    unfold decodeT at h
    split at h
    · split at h <;> cases h
      next haim => exact ⟨_, _, _, _, _, _, by simp [encodeT, encodeAim_of_decodeAim haim], rfl⟩
    · cases h
  · rintro ⟨tx, ty, ox, oy, radius, aim, rfl, rfl⟩
    simp [decodeT, encodeT, be16_eq, word16_bytes]

/-- Format `V` is read from three bytes, the payload's length, and the payload. -/
theorem decodeV_eq_instr {k : Byte → Byte → Byte → List Byte → Instr} {rest : List Byte} {i : Instr} :
    decodeV k rest = .instr i ↔
      ∃ did cid sq payload, payload.length ≤ 255 ∧
        did :: cid :: sq :: BitVec.ofNat 8 payload.length :: payload = rest ∧ k did cid sq payload = i := by
  constructor
  · intro h
    unfold decodeV at h
    split at h
    · split at h <;> cases h
      next did cid sq len payload hlen =>
        exact ⟨did, cid, sq, payload, by have := len.isLt; omega, by rw [hlen, BitVec.ofNat_toNat, BitVec.setWidth_eq],
          rfl⟩
    · cases h
  · rintro ⟨did, cid, sq, payload, hlen, rfl, rfl⟩
    simp only [decodeV, BitVec.toNat_ofNat]
    rw [if_pos (by omega)]

/-! ## Operations -/

/-- A well-formed instruction is read back from its operand bytes. -/
theorem decodeOperands_encodeOperands {i : Instr} (h : i.wellFormed = true) :
    decodeOperands i.operation (encodeOperands i) = .instr i := by
  cases i with
  | build did cid sq payload =>
    exact decodeV_eq_instr.2 ⟨did, cid, sq, payload, of_decide_eq_true h, rfl, rfl⟩
  | next | tryEnter | leave | stop => rfl
  | map tx ty ox oy radius aim => exact decodeT_eq_instr.2 ⟨tx, ty, ox, oy, radius, aim, rfl, rfl⟩
  | setHeading x => exact decodeH_eq_instr.2 ⟨x, rfl, rfl⟩
  | roll x s k => exact decodeR_eq_instr.2 ⟨x, s, k, rfl, rfl⟩
  | setColor | setBackLed => rfl
  | joy tx ty ox oy radius aim => exact decodeT_eq_instr.2 ⟨tx, ty, ox, oy, radius, aim, rfl, rfl⟩

/-- The operand bytes an operation accepts are those of a well-formed instruction. -/
theorem encodeOperands_of_decodeOperands {o : Operation} {rest : List Byte} {i : Instr}
    (h : decodeOperands o rest = .instr i) : i.wellFormed = true ∧ encodeOperands i = rest := by
  cases o with
  | build =>
    obtain ⟨did, cid, sq, payload, hlen, rfl, rfl⟩ := decodeV_eq_instr.1 h
    exact ⟨decide_eq_true hlen, rfl⟩
  | next | tryEnter | leave | stop => obtain ⟨rfl, rfl⟩ := decodeZ_eq_instr.1 h; exact ⟨rfl, rfl⟩
  | map | joy => obtain ⟨tx, ty, ox, oy, radius, aim, rfl, rfl⟩ := decodeT_eq_instr.1 h; exact ⟨rfl, rfl⟩
  | setHeading => obtain ⟨x, rfl, rfl⟩ := decodeH_eq_instr.1 h; exact ⟨rfl, rfl⟩
  | roll => obtain ⟨x, s, k, rfl, rfl⟩ := decodeR_eq_instr.1 h; exact ⟨rfl, rfl⟩
  | setColor => obtain ⟨r, g, b, rfl, rfl⟩ := decodeC_eq_instr.1 h; exact ⟨rfl, rfl⟩
  | setBackLed => obtain ⟨b, rfl, rfl⟩ := decodeB_eq_instr.1 h; exact ⟨rfl, rfl⟩

/-- The opcode byte selects the one operation that has it, where the request port reaches it (R105, R277). -/
theorem ofOpcode_eq_some {c : Config} {op : Byte} {o : Operation} :
    Operation.ofOpcode c op = some o ↔ o.opcode = op ∧ o.reachable c = true := by
  constructor
  · exact opcode_of_ofOpcode
  · rintro ⟨rfl, h⟩
    exact ofOpcode_opcode c o h

/-! ## Packets -/

/-- A packet decodes to an instruction just when it is the packet of that instruction, which is well formed. -/
theorem decode_eq_instr {p : List Byte} {i : Instr} :
    decode p = .instr i ↔ i.wellFormed = true ∧ encode i = p := by
  constructor
  · intro h
    obtain ⟨op, rest, o, rfl, ho, hd⟩ := decodeWith_eq_instr.1 h
    obtain ⟨rfl, -⟩ := ofOpcode_eq_some.1 ho
    obtain ⟨hwf, rfl⟩ := encodeOperands_of_decodeOperands hd
    obtain rfl := operation_of_decodeOperands hd
    exact ⟨hwf, rfl⟩
  · rintro ⟨hwf, rfl⟩
    exact decodeWith_eq_instr.2
      ⟨_, _, _, rfl, ofOpcode_eq_some.2 ⟨rfl, reachable_bb8 _⟩, decodeOperands_encodeOperands hwf⟩

/-- Settles O1: the packet of a well-formed instruction is one that decodes to it. -/
theorem decodeOfEncode : Obligations.DecodeOfEncode := fun _ hwf => decode_eq_instr.2 ⟨hwf, rfl⟩

/-- Settles O2: a packet that decodes to an instruction is that instruction's own. -/
theorem encodeOfDecode : Obligations.EncodeOfDecode := fun _ _ h => decode_eq_instr.1 h

/-- Settles O3: each packet is the encoding of the instruction named beside it. -/
theorem specPacketsDecode : Obligations.SpecPacketsDecode :=
  ⟨decode_eq_instr.2 ⟨rfl, rfl⟩, decode_eq_instr.2 ⟨rfl, rfl⟩, decode_eq_instr.2 ⟨rfl, rfl⟩,
    decode_eq_instr.2 ⟨rfl, rfl⟩, decode_eq_instr.2 ⟨rfl, rfl⟩, decode_eq_instr.2 ⟨rfl, rfl⟩,
    decode_eq_instr.2 ⟨rfl, rfl⟩, decode_eq_instr.2 ⟨rfl, rfl⟩⟩

end Sys2Proof
end

section
/-! PROOF. Which packets are legal, under every configuration (spec/30_encoding.md R105 to R107, R277). -/

namespace Sys2Proof

/-! ## Operand bytes -/

/-- The operand bytes a format admits: their number, and the `aim` byte of format `T` (R96, R106, R107). -/
def Format.Admits (rest : List Byte) : Format → Prop
  | .Z => rest.length = 0
  | .B => rest.length = 1
  | .H => rest.length = 2
  | .C => rest.length = 3
  | .R => rest.length = 4
  | .T => rest.length = 11 ∧ (rest[0]? = some 0x00 ∨ rest[0]? = some 0x01)
  | .V => ∃ did cid sq len payload, rest = did :: cid :: sq :: len :: payload ∧ payload.length = BitVec.toNat len

/-- The operand bytes of a well-formed instruction are admitted by its format. -/
theorem admits_encodeOperands {i : Instr} (h : i.wellFormed = true) :
    i.operation.format.Admits (encodeOperands i) := by
  cases i with
  | build did cid sq payload =>
    have hlen : payload.length ≤ 255 := of_decide_eq_true h
    exact ⟨did, cid, sq, _, payload, rfl, by rw [BitVec.toNat_ofNat]; omega⟩
  | map _ _ _ _ _ aim | joy _ _ _ _ _ aim => exact ⟨rfl, by cases aim <;> simp [encodeOperands, encodeT, encodeAim]⟩
  | next | tryEnter | leave | setHeading | roll | stop | setColor | setBackLed => rfl

/-- Ten bytes behind an `aim` byte are five words. -/
theorem exists_encodeT_eq (aim : Bool) {words : List Byte} (h : words.length = 10) :
    ∃ tx ty ox oy radius, encodeT tx ty ox oy radius aim = encodeAim aim :: words := by
  match words, h with
  | [txH, txL, tyH, tyL, oxH, oxL, oyH, oyL, rdH, rdL], _ =>
    exact ⟨word16 txH txL, word16 tyH tyL, word16 oxH oxL, word16 oyH oyL, word16 rdH rdL, by simp [encodeT]⟩

/-- Format `T` accepts the bytes it admits. -/
theorem decodeT_accepts {k : Word16 → Word16 → Word16 → Word16 → Word16 → Bool → Instr} {rest : List Byte}
    (h : Format.T.Admits rest) : ∃ i, decodeT k rest = .instr i := by
  obtain ⟨hlen, haim⟩ := h
  obtain ⟨aim, words, rfl, hwords⟩ : ∃ aim words, rest = encodeAim aim :: words ∧ words.length = 10 := by
    cases rest with
    | nil => cases hlen
    | cons b words =>
      simp only [List.getElem?_cons_zero, Option.some.injEq] at haim
      obtain rfl | rfl := haim
      · exact ⟨false, words, rfl, Nat.succ.inj hlen⟩
      · exact ⟨true, words, rfl, Nat.succ.inj hlen⟩
  obtain ⟨tx, ty, ox, oy, radius, hT⟩ := exists_encodeT_eq aim hwords
  exact ⟨_, decodeT_eq_instr.2 ⟨tx, ty, ox, oy, radius, aim, hT, rfl⟩⟩

/-- An operation accepts just the operand bytes its format admits. -/
theorem exists_decodeOperands_eq_instr (o : Operation) (rest : List Byte) :
    (∃ i, decodeOperands o rest = .instr i) ↔ o.format.Admits rest := by
  constructor
  · rintro ⟨i, h⟩
    obtain rfl := operation_of_decodeOperands h
    obtain ⟨hwf, rfl⟩ := encodeOperands_of_decodeOperands h
    exact admits_encodeOperands hwf
  · intro h
    cases o with
    | build =>
      obtain ⟨did, cid, sq, len, payload, rfl, hlen⟩ := h
      exact ⟨.build did cid sq payload, if_pos hlen⟩
    | next | tryEnter | leave | stop =>
      obtain rfl := List.length_eq_zero_iff.1 h
      exact ⟨_, rfl⟩
    | map | joy => exact decodeT_accepts h
    | setHeading =>
      obtain ⟨hH, hL, rfl⟩ := List.length_eq_two.1 h
      exact ⟨_, rfl⟩
    | roll =>
      match rest, h with
      | [hH, hL, s, k], _ => exact ⟨_, rfl⟩
    | setColor =>
      obtain ⟨r, g, b, rfl⟩ := List.length_eq_three.1 h
      exact ⟨_, rfl⟩
    | setBackLed =>
      obtain ⟨b, rfl⟩ := List.length_eq_one_iff.1 h
      exact ⟨_, rfl⟩

/-! ## Packets -/

/-- The port reaches an operation that changes a unit's state only with `DIRECT_UNIT_ACCESS` (R277). -/
theorem reachable_iff {c : Config} {o : Operation} :
    o.reachable c = true ↔ (o.changesUnitState = true → c.directUnitAccess = true) := by
  cases h : o.changesUnitState <;> simp [Operation.reachable, h]

/-- The legal packets are the opcodes of the reachable operations, each followed by operand bytes of its format. -/
theorem exists_decodeWith_eq_instr {c : Config} {p : List Byte} :
    (∃ i, decodeWith c p = .instr i) ↔
      ∃ (o : Operation) (rest : List Byte), p = o.opcode :: rest ∧ o.reachable c = true ∧ o.format.Admits rest := by
  constructor
  · rintro ⟨i, h⟩
    obtain ⟨op, rest, o, rfl, ho, hd⟩ := decodeWith_eq_instr.1 h
    obtain ⟨rfl, hreach⟩ := ofOpcode_eq_some.1 ho
    exact ⟨o, rest, rfl, hreach, (exists_decodeOperands_eq_instr o rest).1 ⟨i, hd⟩⟩
  · rintro ⟨o, rest, rfl, hreach, h⟩
    obtain ⟨i, hd⟩ := (exists_decodeOperands_eq_instr o rest).2 h
    exact ⟨i, decodeWith_eq_instr.2 ⟨_, rest, o, rfl, ofOpcode_eq_some.2 ⟨rfl, hreach⟩, hd⟩⟩

/-- Settles O4: the rows of the opcode table, one by one. -/
theorem legalPackets : Obligations.LegalPackets := by
  intro c p
  rw [exists_decodeWith_eq_instr]
  constructor
  · rintro ⟨o, rest, rfl, hreach, h⟩
    refine ⟨o.opcode, rest, rfl, ?_⟩
    cases o with
    | build => exact .inl ⟨rfl, h⟩
    | next => exact .inr (.inl ⟨.inl rfl, reachable_iff.1 hreach rfl, h⟩)
    | tryEnter => exact .inr (.inl ⟨.inr (.inl rfl), reachable_iff.1 hreach rfl, h⟩)
    | leave => exact .inr (.inl ⟨.inr (.inr rfl), reachable_iff.1 hreach rfl, h⟩)
    | stop => exact .inr (.inr (.inl ⟨rfl, h⟩))
    | setBackLed => exact .inr (.inr (.inr (.inl ⟨rfl, h⟩)))
    | setHeading => exact .inr (.inr (.inr (.inr (.inl ⟨rfl, h⟩))))
    | setColor => exact .inr (.inr (.inr (.inr (.inr (.inl ⟨rfl, h⟩)))))
    | roll => exact .inr (.inr (.inr (.inr (.inr (.inr (.inl ⟨rfl, h⟩))))))
    | map => exact .inr (.inr (.inr (.inr (.inr (.inr (.inr ⟨.inl rfl, h⟩))))))
    | joy => exact .inr (.inr (.inr (.inr (.inr (.inr (.inr ⟨.inr rfl, h⟩))))))
  · rintro ⟨op, rest, rfl, ⟨rfl, h⟩ | ⟨rfl | rfl | rfl, hc, h⟩ | ⟨rfl, h⟩ | ⟨rfl, h⟩ | ⟨rfl, h⟩ | ⟨rfl, h⟩ | ⟨rfl, h⟩ |
      ⟨rfl | rfl, h⟩⟩
    · exact ⟨.build, rest, rfl, reachable_iff.2 nofun, h⟩
    · exact ⟨.next, rest, rfl, reachable_iff.2 fun _ => hc, h⟩
    · exact ⟨.tryEnter, rest, rfl, reachable_iff.2 fun _ => hc, h⟩
    · exact ⟨.leave, rest, rfl, reachable_iff.2 fun _ => hc, h⟩
    · exact ⟨.stop, rest, rfl, reachable_iff.2 nofun, h⟩
    · exact ⟨.setBackLed, rest, rfl, reachable_iff.2 nofun, h⟩
    · exact ⟨.setHeading, rest, rfl, reachable_iff.2 nofun, h⟩
    · exact ⟨.setColor, rest, rfl, reachable_iff.2 nofun, h⟩
    · exact ⟨.roll, rest, rfl, reachable_iff.2 nofun, h⟩
    · exact ⟨.map, rest, rfl, reachable_iff.2 nofun, h⟩
    · exact ⟨.joy, rest, rfl, reachable_iff.2 nofun, h⟩

/-- The opcodes of the operations that change a unit's state (R100, R277). -/
theorem changesUnitState_iff_opcode {o : Operation} :
    o.changesUnitState = true ↔ o.opcode = 0x01 ∨ o.opcode = 0x02 ∨ o.opcode = 0x03 := by
  cases o <;> decide

/-- With `DIRECT_UNIT_ACCESS` false the opcode table loses three rows and keeps the others. -/
theorem ofOpcode_of_closed {c : Config} (hc : c.directUnitAccess = false) (op : Byte) :
    Operation.ofOpcode c op =
      if op = 0x01 ∨ op = 0x02 ∨ op = 0x03 then none else Operation.ofOpcode Config.bb8 op := by
  have hreach (o : Operation) : o.reachable c = true ↔ ¬ o.changesUnitState = true := by simp [reachable_iff, hc]
  ext o
  split
  case isTrue hop =>
    refine ⟨fun h => ?_, nofun⟩
    obtain ⟨rfl, ho⟩ := ofOpcode_eq_some.1 h
    exact absurd (changesUnitState_iff_opcode.2 hop) ((hreach o).1 ho)
  case isFalse hop =>
    rw [ofOpcode_eq_some, ofOpcode_eq_some]
    refine and_congr_right ?_
    rintro rfl
    simp only [reachable_bb8, iff_true]
    exact (hreach o).2 (mt changesUnitState_iff_opcode.1 hop)

/-- Settles O6: the decoder reads the opcode table first, and the operand bytes under no configuration. -/
theorem directUnitAccessClosed : Obligations.DirectUnitAccessClosed := by
  intro c op rest hc
  by_cases hop : op = 0x01 ∨ op = 0x02 ∨ op = 0x03
  · simp only [decodeWith, ofOpcode_of_closed hc, if_pos hop]
  · simp only [decode, decodeWith, ofOpcode_of_closed hc, if_neg hop]

end Sys2Proof
end

section
/-! PROOF. An illegal packet (spec/30_encoding.md R108), the frame of the codec (R91, R93, spec/40_framecodec.md R135),
and the pseudo-operations (R111, R112). -/

namespace Sys2Proof.Machine

/-! ## An illegal packet -/

/-- Settles O5: the turn is consumed, then the packet, and the fault of an illegal packet is raised. -/
theorem illegalPacketOnlyReported : Obligations.IllegalPacketOnlyReported := by
  intro s sch p rest why hsch hreq hdec
  rw [step_of_schedule_cons hsch, deliver_request_of_req_cons (s := { s with schedule := sch }) hreq,
    handlePacket_of_decode_illegal hdec, raiseFault_eq]
  rfl

/-! ## Frames -/

/-- The codec builds a frame just from a payload of 1 to 254 bytes, and it is the wire frame (R91, R133). -/
theorem buildFrame_eq_ok {did cid sq : Byte} {payload f : List Byte} :
    buildFrame Config.bb8 did cid sq payload = .ok f ↔
      (1 ≤ payload.length ∧ payload.length ≤ 254) ∧ wireFrame did cid sq payload = f := by
  by_cases h : 1 ≤ payload.length ∧ payload.length ≤ 254
  · simp [buildFrame_ok h, h]
  · simp [buildFrame_error h, h]

/-- The fixed bytes of a frame and its payload (R91). -/
theorem wireFrame_layout (did cid sq : Byte) (payload : List Byte) :
    (wireFrame did cid sq payload).take 5 = [0xFF, 0xFF, did, cid, sq] ∧
      ((wireFrame did cid sq payload).drop 6).take payload.length = payload :=
  ⟨rfl, by simp [wireFrame]⟩

/-- The length byte of a frame counts the payload and the checksum byte (R93). -/
theorem wireFrame_getElem?_five (did cid sq : Byte) (payload : List Byte) :
    (wireFrame did cid sq payload)[5]? = some (BitVec.ofNat 8 (payload.length + 1)) := rfl

theorem wireFrame_length (did cid sq : Byte) (payload : List Byte) :
    (wireFrame did cid sq payload).length = payload.length + 7 := by simp [wireFrame]

/-- A total and its ones' complement add up to 255 modulo 256, which is why the receiver's sum is 255 (R135). -/
theorem add_complement_mod (total : Nat) : (total + (255 - total % 256) % 256) % 256 = 255 := by omega

/-- A frame passes the receiver's check (R135). -/
theorem wireFrame_sum_mod {did cid sq : Byte} {payload : List Byte} (h : payload.length ≤ 254) :
    (((wireFrame did cid sq payload).drop 2).map BitVec.toNat).sum % 256 = 255 := by
  have hlen : (payload.length + 1) % 256 = payload.length + 1 := Nat.mod_eq_of_lt (by omega)
  have hsum : (((wireFrame did cid sq payload).drop 2).map BitVec.toNat).sum =
      frameTotal did cid sq payload + (255 - frameTotal did cid sq payload % 256) % 256 := by
    simp only [frameTotal, byteSum_eq, wireFrame, List.cons_append, List.nil_append, List.drop_succ_cons,
      List.drop_zero, List.map_cons, List.map_append, List.map_nil, List.sum_cons, List.sum_append, List.sum_nil,
      BitVec.toNat_ofNat, Nat.reducePow, hlen]
    omega
  rw [hsum, add_complement_mod]

/-- Settles O10: a frame the codec builds is a wire frame whose length byte does not wrap. -/
theorem framesPassReceiverCheck : Obligations.FramesPassReceiverCheck := by
  intro did cid sq payload f h
  obtain ⟨⟨-, hmax⟩, rfl⟩ := buildFrame_eq_ok.1 h
  obtain ⟨hfixed, hpayload⟩ := wireFrame_layout did cid sq payload
  have hbyte : (BitVec.ofNat 8 (payload.length + 1)).toNat = payload.length + 1 := by
    rw [BitVec.toNat_ofNat]; omega
  exact ⟨hfixed, hpayload, ⟨_, wireFrame_getElem?_five .., hbyte, by rw [wireFrame_length, hbyte]⟩,
    wireFrame_sum_mod hmax⟩

/-! ## Pseudo-operations -/

/-- `SETBACKLED` with `READY` at 1 sends its ungated frame (R187). -/
theorem exec_setBackLed_of_ready {s : State} (hready : s.ready = true) (b : Byte) :
    exec (.setBackLed b) s = .next (ungatedSent 0x21 [b] s) :=
  (whenReady_ready _ hready).trans (congrArg _ (backLedBody_eq b s))

/-- `SETCOLOR` with `READY` at 1 is dropped or sends its gated frame (R178, R186). -/
theorem exec_setColor_of_ready {s : State} (hready : s.ready = true) (r g b : Byte) :
    exec (.setColor r g b) s = .next (if s.busy then s else gatedSent 0x20 [r, g, b, 0] s) :=
  (whenReady_ready _ hready).trans (congrArg _ (gatedCommand_eq s (by simp [colorPayload])))

/-- `SETHEADING` with `READY` at 1 is dropped or sends its gated frame (R178, R180). -/
theorem exec_setHeading_of_ready {s : State} (hready : s.ready = true) (h : Word16) :
    exec (.setHeading h) s = .next (if s.busy then s else gatedSent 0x01 [highByte h, lowByte h] s) :=
  (whenReady_ready _ hready).trans (congrArg _ (gatedCommand_eq s (by simp [headingPayload, be16])))

/-- Settles O8: the packets are the encoder's, and each request has its command's effect. -/
theorem aimPseudoOperations : Obligations.AimPseudoOperations :=
  ⟨rfl, rfl, fun _ hready => ⟨exec_setBackLed_of_ready hready 255, exec_setBackLed_of_ready hready 0,
    exec_setColor_of_ready hready 0 0 0, exec_setHeading_of_ready hready 0⟩⟩

end Sys2Proof.Machine
end

section
/-! PROOF. `BUILD` from the request port (spec/40_framecodec.md R131, R133). -/

namespace Sys2Proof.Machine

/-- `BUILD` of a payload of legal length answers the wire frame behind `0x00` (R131). -/
theorem exec_build_of_legal {payload : List Byte} (h : 1 ≤ payload.length ∧ payload.length ≤ 254)
    (did cid sq : Byte) (s : State) :
    exec (.build did cid sq payload) s =
      .next { s with rspLog := s.rspLog ++ [0x00 :: wireFrame did cid sq payload] } := by
  simp only [exec, execBuild, buildFrame_ok h]
  rfl

/-- `BUILD` of any other payload raises `InvalidPayload` and does nothing else (R133). -/
theorem exec_build_of_illegal {payload : List Byte} (h : ¬ (1 ≤ payload.length ∧ payload.length ≤ 254))
    (did cid sq : Byte) (s : State) :
    exec (.build did cid sq payload) s =
      .next { s with rspLog := s.rspLog ++ [[0x01]], diagLog := s.diagLog ++ [0x01] } := by
  simp only [exec, execBuild, buildFrame_error h, raiseFault_eq]
  rfl

/-- Settles O9: the packet is the encoder's, and the codec's two outcomes are told apart by the payload length. -/
theorem buildResult : Obligations.BuildResult := by
  refine ⟨fun did cid sq payload hlen => decodeOfEncode (.build did cid sq payload) (decide_eq_true hlen), ?_⟩
  intro did cid sq payload s
  split
  case isTrue h => exact exec_build_of_legal h did cid sq s
  case isFalse h => exact exec_build_of_illegal h did cid sq s

end Sys2Proof.Machine
end

section
/-! PROOF. The sequence generator (spec/41_sequence.md): what a direct `NEXT` does (R151), alone and `k` times over
(R152), and what else advances `SEQ` (R153, R154). -/

namespace Sys2Proof.Machine

/-! ## A direct `NEXT` -/

/-- `NEXT` answers `SEQ` and advances it (R151). -/
theorem exec_next (s : State) :
    exec .next s = .next { s with seq := s.seq + 1, rspLog := s.rspLog ++ [[0x00, s.seq]] } := rfl

/-- The advance of `SEQ` is the increment modulo 256. -/
theorem add_one_eq_ofNat_mod (sq : Byte) : sq + 1 = BitVec.ofNat 8 ((sq.toNat + 1) % 256) :=
  BitVec.eq_of_toNat_eq (by simp)

/-- Settles O11: the packet is the encoder's, and the advance is that of `exec_next`. -/
theorem nextResult : Obligations.NextResult :=
  ⟨decodeOfEncode .next rfl, fun s => add_one_eq_ofNat_mod s.seq ▸ exec_next s⟩

/-- A step on a request of `NEXT` takes the packet and its turn, and is `NEXT`. -/
theorem step_of_next_request {s : State} {sch : List Arrival} {rest : List (List Byte)}
    (hsch : s.schedule = .request :: sch) (hreq : s.req = [0x01] :: rest) :
    step s = exec .next { s with schedule := sch, req := rest } :=
  stepRunsDecoded s sch [0x01] rest .next hsch hreq nextResult.1

/-! ## `k` requests of `NEXT` -/

/-- The responses to `k` requests of `NEXT`, from the value `sq` of `SEQ` on. -/
def nextResponses (sq : Byte) (k : Nat) : List (List Byte) :=
  (List.range k).map fun j => [0x00, sq + BitVec.ofNat 8 j]

/-- The first response carries `sq`, and the others start from the advanced value. -/
theorem nextResponses_succ (sq : Byte) (k : Nat) :
    nextResponses sq (k + 1) = [0x00, sq] :: nextResponses (sq + 1) k := by
  have hj (j : Nat) : sq + BitVec.ofNat 8 (j + 1) = sq + 1#8 + BitVec.ofNat 8 j := by
    rw [Nat.add_comm, BitVec.ofNat_add, BitVec.add_assoc]
  simpa [nextResponses, List.range_succ_eq_map] using fun j _ => hj j

/-- From 0 the responses carry `0, 1, …` modulo 256 (R152). -/
theorem nextResponses_zero (k : Nat) :
    nextResponses 0 k = (List.range k).map fun j => [0x00, BitVec.ofNat 8 (j % 256)] := by
  have hj (j : Nat) : (0 : Byte) + BitVec.ofNat 8 j = BitVec.ofNat 8 (j % 256) :=
    BitVec.eq_of_toNat_eq (by simp)
  simp only [nextResponses, hj]

/-- `k` requests of `NEXT` append their responses, whatever `SEQ` was. -/
theorem run_next_requests {k : Nat} {s : State} (hsch : s.schedule = List.replicate k .request)
    (hreq : s.req = List.replicate k [0x01]) :
    ∃ t, run k s = .next t ∧ t.rspLog = s.rspLog ++ nextResponses s.seq k := by
  induction k generalizing s with
  | zero => exact ⟨s, run_zero s, by simp [nextResponses]⟩
  | succ k ih =>
    have hstep := (step_of_next_request hsch hreq).trans (exec_next _)
    obtain ⟨t, hrun, hrsp⟩ := ih (s := { s with
      schedule := .replicate k .request, req := .replicate k [0x01]
      seq := s.seq + 1, rspLog := s.rspLog ++ [[0x00, s.seq]] }) rfl rfl
    exact ⟨t, (run_succ_of_step k hstep).trans hrun, by rw [hrsp, nextResponses_succ]; simp⟩

/-- Settles O12: the run of `run_next_requests` from `SEQ` = 0. -/
theorem nextWraparound : Obligations.NextWraparound := by
  intro k s hseq hsch hreq
  rw [← nextResponses_zero, ← hseq]
  exact run_next_requests hsch hreq

/-! ## What advances `SEQ` -/

/-- From `s` to `t` at most one frame is sent, it carries `SEQ`, and `SEQ` advances once for it and `direct` times
besides (R153). -/
def Numbers (direct : Nat) (s t : State) : Prop :=
  ∃ sent, t.txLog = s.txLog ++ sent ∧ sent.length ≤ 1 ∧ (∀ w ∈ sent, w.frame[4]? = some s.seq) ∧
    t.seq = s.seq + BitVec.ofNat 8 (sent.length + direct)

/-- Nothing is sent where `TXLOG` stays, so `SEQ` advances by the direct `NEXT`s alone. -/
theorem Numbers.of_unsent {direct : Nat} {s t : State} (htx : t.txLog = s.txLog)
    (hseq : t.seq = s.seq + BitVec.ofNat 8 direct) : Numbers direct s t :=
  ⟨[], by simpa using htx, by simp, by simp, by simpa using hseq⟩

/-- Nothing is numbered where `TXLOG` and `SEQ` stay. -/
theorem Numbers.nothing {s t : State} (htx : t.txLog = s.txLog) (hseq : t.seq = s.seq) : Numbers 0 s t :=
  .of_unsent htx (by simpa using hseq)

/-- A frame that carries `SEQ`, with `SEQ` advanced. -/
theorem Numbers.of_frame {s t : State} {tag : Tag} {did cid : Byte} {payload : List Byte}
    (htx : t.txLog = s.txLog ++ [⟨tag, wireFrame did cid s.seq payload⟩]) (hseq : t.seq = s.seq + 1) :
    Numbers 0 s t :=
  ⟨_, htx, Nat.le_refl 1, List.forall_mem_singleton.2 (wireFrame_getElem?_four ..), hseq⟩

/-- Reports made before change nothing of the count. -/
theorem Numbers.after_reports {direct : Nat} {s u t : State} (h : Numbers direct u t) (hu : ReportsOnly s u) :
    Numbers direct s t := by
  rwa [Numbers, hu.txLog, hu.seq] at h

/-- An operation other than `NEXT` advances `SEQ` for the frame it sends alone. -/
theorem exec_numbers_frame {i : Instr} {s t : State} (h : exec i s = .next t) (hi : i ≠ .next) : Numbers 0 s t := by
  cases exec_effect h with
  | reported hr => exact .nothing hr.txLog hr.seq
  | numbered hnext => exact absurd hnext hi
  | entered _ _ he | left _ he | queued _ _ _ he => subst he; exact .nothing rfl rfl
  | gated _ _ _ _ _ _ _ he | ungated _ _ he => subst he; exact .of_frame rfl rfl

/-- `NEXT` advances `SEQ` once and sends nothing. -/
theorem exec_next_numbers {s t : State} (h : exec .next s = .next t) : Numbers 1 s t := by
  cases h
  exact .of_unsent rfl rfl

/-- An operation advances `SEQ` for the frame it sends, and once more when it is `NEXT`. -/
theorem exec_numbers {i : Instr} {s t : State} (h : exec i s = .next t) :
    Numbers (if i = .next then 1 else 0) s t := by
  split
  case isTrue hi => subst hi; exact exec_next_numbers h
  case isFalse hi => exact exec_numbers_frame h hi

/-- A tick advances `SEQ` for the stop it sends. -/
theorem tickEvent_numbers (s : State) : Numbers 0 s (tickEvent Config.bb8 s) := by
  obtain heq | ⟨-, -, heq⟩ := tickEvent_cases s <;> rw [heq]
  · exact .nothing rfl rfl
  · exact .of_frame rfl rfl

/-- A settle event sends nothing and leaves `SEQ` alone (R154). -/
theorem settleEvent_keeps_seq {e : SettleEvent} {s t : State} (h : settleEvent e s = .next t) :
    t.txLog = s.txLog ∧ t.seq = s.seq := by
  obtain ⟨-, -, rfl⟩ | ⟨-, -, rfl⟩ := settleEvent_next h <;> exact ⟨rfl, rfl⟩

/-- A step whose input is the packet of `NEXT` advances `SEQ` once and sends nothing. -/
theorem step_numbers_of_next {s t : State} (h : step s = .next t)
    (hturn : s.schedule.head? = some .request) (hreq : s.req.head? = some [0x01]) : Numbers 1 s t := by
  obtain ⟨sch, hsch⟩ := List.head?_eq_some_iff.1 hturn
  obtain ⟨rest, hrest⟩ := List.head?_eq_some_iff.1 hreq
  rw [step_of_next_request hsch hrest] at h
  exact (exec_next_numbers h).after_reports (.of_inputs s (by simp [hrest]) ..)

/-- Any other step is a reset, or advances `SEQ` for the frame it sends alone. -/
theorem step_numbers_of_not_next {s t : State} (h : step s = .next t)
    (hnext : ¬ (s.schedule.head? = some .request ∧ s.req.head? = some [0x01])) :
    (s.schedule.head? = some .reset ∧ t.seq = 0) ∨ Numbers 0 s t := by
  cases step_effect h with
  | reported hr => exact .inr (.nothing hr.txLog hr.seq)
  | request _ p i hu hturn hreq hd he =>
    have hi : i ≠ .next := by
      rintro rfl
      obtain ⟨-, rfl⟩ := encodeOfDecode p .next hd
      exact hnext ⟨hturn, hreq⟩
    exact .inr ((exec_numbers_frame he hi).after_reports hu)
  | settle _ _ hu _ _ he =>
    obtain ⟨htx, hseq⟩ := settleEvent_keeps_seq he
    exact .inr ((Numbers.nothing htx hseq).after_reports hu)
  | tick u hu _ ht => subst ht; exact .inr ((tickEvent_numbers u).after_reports hu)
  | reset _ _ hturn ht => subst ht; exact .inl ⟨hturn, rfl⟩

/-- Settles O13: operations, ticks, settle events and illegal packets each keep the count, and so does a step, whose
input is or is not the packet of `NEXT`. -/
theorem sequenceAdvancesPerFrame : Obligations.SequenceAdvancesPerFrame := by
  refine ⟨fun _ _ _ => exec_numbers, tickEvent_numbers, fun _ _ _ => settleEvent_keeps_seq,
    fun s t sch p rest why hsch hreq hd h => ?_, fun s t h => ?_⟩
  · rw [illegalPacketOnlyReported s sch p rest why hsch hreq hd] at h
    cases h
    exact ⟨rfl, rfl⟩
  · split
    case isTrue hnext => exact .inr (step_numbers_of_next h hnext.1 hnext.2)
    case isFalse hnext => exact step_numbers_of_not_next h hnext

end Sys2Proof.Machine
end

section
/-! PROOF. The gate from the request port (spec/42_gate.md): `TRYENTER` (R161), `LEAVE` (R163), and the gate that stays
taken while nothing presented leaves it (R166). -/

namespace Sys2Proof.Machine

/-! ## `TRYENTER` and `LEAVE` -/

/-- `TRYENTER` of an occupied gate answers false and does nothing else (R161). -/
theorem exec_tryEnter_of_busy {s : State} (h : s.busy = true) :
    exec .tryEnter s = .next { s with rspLog := s.rspLog ++ [[0x00, 0x00]] } := by
  simp only [exec, execTryEnter, tryEnter_of_busy h]
  rfl

/-- `TRYENTER` of a free gate takes it and answers true (R161). -/
theorem exec_tryEnter_of_free {s : State} (h : s.busy = false) :
    exec .tryEnter s = .next { s with busy := true, rspLog := s.rspLog ++ [[0x00, 0x01]] } := by
  simp only [exec, execTryEnter, tryEnter_of_free h]
  rfl

/-- `LEAVE` frees the gate, occupied or not (R163). -/
theorem exec_leave (s : State) :
    exec .leave s = .next { s with busy := false, rspLog := s.rspLog ++ [[0x00]] } := rfl

/-- Settles O14: the packet is the encoder's, and the two outcomes are told apart by the gate. -/
theorem tryEnterResult : Obligations.TryEnterResult :=
  ⟨decodeOfEncode .tryEnter rfl, fun _ => exec_tryEnter_of_busy, fun _ => exec_tryEnter_of_free⟩

/-- Settles O15: the packet is the encoder's, and the effect is that of `exec_leave`. -/
theorem leaveResult : Obligations.LeaveResult := ⟨decodeOfEncode .leave rfl, exec_leave⟩

/-! ## The gate held -/

/-- No step presents a settle event or adds a turn, as none presents a request (`step_requests`). -/
theorem step_settles_turns {s t : State} (h : step s = .next t) :
    t.settle ⊆ s.settle ∧ t.schedule ⊆ s.schedule := by
  obtain ⟨-, rfl⟩ | ⟨a, sch, hsch, -⟩ := step_emits h
  · exact ⟨List.Subset.refl _, List.Subset.refl _⟩
  · obtain ⟨hturns, -, hsettle, -, -⟩ := streamsKeepTheirOrder s t a sch hsch h
    constructor
    · rw [hsettle]
      split
      case isTrue => exact List.tail_subset _
      case isFalse => exact List.Subset.refl _
    · rw [hturns, hsch]
      exact List.subset_cons_self _ _

/-- The gate is taken, and nothing presented leaves it: no `LEAVE` packet, no gated settle event and no reset. -/
structure GateHeld (s : State) : Prop where
  busy : s.busy = true
  no_leave : ∀ p ∈ s.req, decode p ≠ .instr .leave
  ungated : ∀ e ∈ s.settle, e.tag = .U
  no_reset : .reset ∉ s.schedule

/-- With the gate held none of the inputs that clear `BUSY` (R32) is next, so a step leaves it taken. -/
theorem GateHeld.busy_of_step {s t : State} (hs : GateHeld s) (h : step s = .next t) : t.busy = true := by
  by_contra hfree
  obtain hreset | ⟨-, e, hset, htag⟩ | ⟨-, p, hreq, hleave⟩ :=
    (busyWriters s t h).1 hs.busy (Bool.eq_false_iff.2 hfree)
  · exact hs.no_reset (List.mem_of_head? hreset)
  · cases htag.symm.trans (hs.ungated e (List.mem_of_head? hset))
  · exact hs.no_leave p (List.mem_of_head? hreq) hleave

/-- A step keeps the gate held, since it presents nothing new. -/
theorem GateHeld.of_step {s t : State} (hs : GateHeld s) (h : step s = .next t) : GateHeld t := by
  obtain ⟨hsettle, hturns⟩ := step_settles_turns h
  exact ⟨hs.busy_of_step h, fun p hp => hs.no_leave p (step_requests h hp), fun e he => hs.ungated e (hsettle he),
    fun hr => hs.no_reset (hturns hr)⟩

/-- Settles O17: the gate is held along the run, and `TRYENTER` finds it occupied. -/
theorem gateHeldUntilLeave : Obligations.GateHeldUntilLeave := by
  intro k s t hbusy hleave hungated hreset hrun
  have ht : GateHeld t := run_keeps (fun _ _ => GateHeld.of_step) ⟨hbusy, hleave, hungated, hreset⟩ hrun
  exact ⟨ht.busy, exec_tryEnter_of_busy ht.busy⟩

end Sys2Proof.Machine
end

section
/-! PROOF. The commands of the dispatcher (spec/43_dispatcher.md): what each leaves when `READY` is 1 (R180 to R187),
the drop policy as a step (R178), and the codes they report (R177). `SETHEADING`, `SETCOLOR` and `SETBACKLED` have
their rules above, with the pseudo-operations. -/

namespace Sys2Proof.Machine

/-! ## Each command with `READY` at 1 -/

/-- `ROLL` with `READY` at 1 is dropped, or sends its gated frame and records its heading (R181, R182). -/
theorem exec_roll_of_ready {s : State} (hready : s.ready = true) (h : Word16) (sp k : Byte) :
    exec (.roll h sp k) s = .next (
      if s.busy then s else { gatedSent 0x30 [sp, highByte h, lowByte h, k] s with lastHeading := h }) :=
  (whenReady_ready _ hready).trans (congrArg _ (rollBody_eq h sp k s))

/-- `STOP` with `READY` at 1 is queued, lost or sent (R183, R189). -/
theorem exec_stop_of_ready {s : State} (hready : s.ready = true) :
    exec .stop s = .next (
      if s.busy then
        if s.stopq = 255 then { s with diagLog := s.diagLog ++ [0x06] } else { s with stopq := s.stopq + 1 }
      else stopSent s) :=
  (whenReady_ready _ hready).trans (congrArg _ (stopBody_eq s))

/-- Settles O18: the packet is the encoder's, and the effect is that of `exec_setHeading_of_ready`. -/
theorem setHeadingResult : Obligations.SetHeadingResult :=
  ⟨fun h => decodeOfEncode (.setHeading h) rfl, fun h _ hready => exec_setHeading_of_ready hready h⟩

/-- Settles O19: the packet is the encoder's, and the effect is that of `exec_roll_of_ready`. -/
theorem rollResult : Obligations.RollResult :=
  ⟨fun h sp k => decodeOfEncode (.roll h sp k) rfl, fun h sp k _ hready => exec_roll_of_ready hready h sp k⟩

/-- Settles O20: the packet is the encoder's, and the effect is that of `exec_stop_of_ready`. -/
theorem stopResult : Obligations.StopResult :=
  ⟨decodeOfEncode .stop rfl, fun _ => exec_stop_of_ready⟩

/-- Settles O21: the packet is the encoder's, and the effect is that of `exec_setColor_of_ready`. -/
theorem setColorResult : Obligations.SetColorResult :=
  ⟨fun r g b => decodeOfEncode (.setColor r g b) rfl, fun r g b _ hready => exec_setColor_of_ready hready r g b⟩

/-- Settles O22: the packet is the encoder's, and the effect is that of `exec_setBackLed_of_ready`. -/
theorem setBackLedResult : Obligations.SetBackLedResult :=
  ⟨fun b => decodeOfEncode (.setBackLed b) rfl, fun b _ hready => exec_setBackLed_of_ready hready b⟩

/-! ## The drop policy -/

/-- `JOY` with a radius of at least 1 is dropped when the gate is occupied (R178, R230). -/
theorem exec_joy_of_busy {s : State} (hready : s.ready = true) (hbusy : s.busy = true) {radius : Word16}
    (hradius : radius ≠ 0) (tx ty ox oy : Word16) (aim : Bool) : exec (.joy tx ty ox oy radius aim) s = .next s :=
  (whenReady_ready _ hready).trans
    (congrArg _ ((joyBody_ok (mapVector_ok hradius tx ty ox oy aim) s).trans (if_pos hbusy)))

/-- Settles O23: the packet and its turn are consumed, and each of the four commands finds the gate occupied. -/
theorem droppedRequestDoesNothing : Obligations.DroppedRequestDoesNothing := by
  intro s sch p rest i hsch hreq hdec hready hbusy hi
  have hu : ({ s with schedule := sch, req := rest } : State).ready = true := hready
  rw [stepRunsDecoded s sch p rest i hsch hreq hdec]
  obtain ⟨h, rfl⟩ | ⟨h, sp, k, rfl⟩ | ⟨r, g, b, rfl⟩ | ⟨tx, ty, ox, oy, radius, aim, rfl, hradius⟩ := hi
  · rw [exec_setHeading_of_ready hu, if_pos hbusy]
  · rw [exec_roll_of_ready hu, if_pos hbusy]
  · rw [exec_setColor_of_ready hu, if_pos hbusy]
  · exact exec_joy_of_busy hu hbusy hradius tx ty ox oy aim

/-! ## The codes a command reports -/

/-- A command reports nothing, the `InvalidGeometry` of `JOY`, or the `StopOverflow` of `STOP` (R177, R189, R230). -/
theorem exec_command_reports {i : Instr} {s t : State} (hcommand : i.operation.isCommand = true)
    (h : exec i s = .next t) :
    t.diagLog = s.diagLog ∨ t.diagLog = s.diagLog ++ [0x05] ∨ t.diagLog = s.diagLog ++ [0x06] := by
  obtain ⟨did, cid, sq, payload, rfl, -⟩ | ⟨rfl, -⟩ | ⟨rfl, -⟩ | ⟨rfl, -⟩ | ⟨tx, ty, ox, oy, radius, aim, rfl, -⟩ |
    ⟨-, -, hc⟩ := exec_cases h
  · cases hcommand
  · cases hcommand
  · cases hcommand
  · cases hcommand
  · cases hcommand
  · obtain ⟨-, -, rfl⟩ | ⟨-, -, -, rfl⟩ | ⟨-, -, -, rfl⟩ | ⟨-, -, rfl⟩ | ⟨_, -, -, rfl⟩ | ⟨_, _, _, -, -, rfl⟩ |
      ⟨_, -, rfl⟩ | ⟨_, _, _, -, -, rfl⟩ | ⟨_, _, _, _, _, _, _, -, -, -, rfl⟩ | ⟨_, _, _, _, _, -, rfl⟩ := hc
    · exact .inl rfl
    · exact .inr (.inr rfl)
    · exact .inl rfl
    · exact .inl rfl
    · exact .inl rfl
    · exact .inl rfl
    · exact .inl rfl
    · exact .inl rfl
    · exact .inl rfl
    · exact .inr (.inl rfl)

/-- Settles O30: neither code a command reports is `InvalidPayload`. -/
theorem noCommandRaisesInvalidPayload : Obligations.NoCommandRaisesInvalidPayload := by
  intro i s t hcommand h
  obtain hd | hd | hd := exec_command_reports hcommand h
  · exact ⟨[], by simpa using hd, by decide⟩
  · exact ⟨[0x05], hd, by decide⟩
  · exact ⟨[0x06], hd, by decide⟩

end Sys2Proof.Machine
end

section
/-! PROOF. The events (spec/43_dispatcher.md): the settle of a gated write (R190) and of an ungated one (R191), and the
retry tick (R185), each as a step. -/

namespace Sys2Proof.Machine

/-- The oldest settle event leaves `SETTLE` before it is handled. -/
theorem deliver_settle_of_settle_cons {s : State} {e : SettleEvent} {rest : List SettleEvent}
    (h : s.settle = e :: rest) : deliver .settle s = settleEvent e { s with settle := rest } := by
  simp only [deliver, h]

/-- One tick leaves `TICK` before it is handled. -/
theorem deliver_tick_of_ticks_succ {s : State} {n : Nat} (h : s.ticks = n + 1) :
    deliver .tick s = .next (tickEvent Config.bb8 { s with ticks := n }) := by
  simp only [deliver, h]

/-- What the settle of a gated write leaves: one write less in flight, the gate free, and a failure reported (R190). -/
def gatedSettled (status : Status) (s : State) : State :=
  { s with
    inflightG := s.inflightG - 1
    busy := false
    diagLog := s.diagLog ++ (if status = .fail then [0x02] else []) }

/-- A gated write that settles releases the gate, however it settled (R190). -/
theorem settleEvent_gated {s : State} (h : 0 < s.inflightG) (status : Status) :
    settleEvent ⟨.G, status⟩ s = .next (gatedSettled status s) := by
  simp only [settleEvent, if_neg h.ne', reportStatus_eq]
  rfl

/-- An ungated write that settles leaves the gate (R191). -/
theorem settleEvent_ungated {s : State} (h : 0 < s.inflightU) (status : Status) :
    settleEvent ⟨.U, status⟩ s = .next { s with
      inflightU := s.inflightU - 1
      diagLog := s.diagLog ++ (if status = .fail then [0x02] else []) } := by
  simp only [settleEvent, if_neg h.ne', reportStatus_eq]

/-- Settles O31: the turn is consumed, then the tick, and `tickEvent_eq` says what it sends. -/
theorem tickResult : Obligations.TickResult := by
  intro s sch n hsch hticks
  rw [step_of_schedule_cons hsch, deliver_tick_of_ticks_succ (s := { s with schedule := sch }) hticks, tickEvent_eq]

/-- The step on a gated settle takes the turn and the event, and releases the gate. -/
theorem step_of_gated_settle {s : State} {sch : List Arrival} {status : Status} {rest : List SettleEvent}
    (hsch : s.schedule = .settle :: sch) (hset : s.settle = ⟨.G, status⟩ :: rest) (hflight : 0 < s.inflightG) :
    step s = .next (gatedSettled status { s with schedule := sch, settle := rest }) := by
  rw [step_of_schedule_cons hsch, deliver_settle_of_settle_cons (s := { s with schedule := sch }) hset]
  exact settleEvent_gated (s := { s with schedule := sch, settle := rest }) hflight status

/-- Settles O32: the fields of the state that `step_of_gated_settle` answers. -/
theorem gatedSettleResult : Obligations.GatedSettleResult :=
  fun _ _ _ _ hsch hset hflight => step_of_gated_settle hsch hset hflight

/-- Settles O33: the turn is consumed, then the event, and the gate is not asked. -/
theorem ungatedSettleResult : Obligations.UngatedSettleResult := by
  intro s sch status rest hsch hset hflight
  rw [step_of_schedule_cons hsch, deliver_settle_of_settle_cons (s := { s with schedule := sch }) hset]
  exact settleEvent_ungated (s := { s with schedule := sch, settle := rest }) hflight status

end Sys2Proof.Machine
end

section
/-! PROOF. A stop that waits for the gate (spec/43_dispatcher.md R183 to R185, R190, R304): queued while a write is in
flight, it goes out at a tick that finds the gate free, with the heading of that moment. Each step of the schedule has
its rule; the runs chain them. -/

namespace Sys2Proof.Machine

/-- A `STOP` that finds the gate occupied, with room in the queue, only joins the queue (R183). -/
theorem step_of_stop_queued {s : State} {sch : List Arrival} {rest : List (List Byte)} (hready : s.ready = true)
    (hbusy : s.busy = true) (hroom : s.stopq < 255) (hsch : s.schedule = .request :: sch)
    (hreq : s.req = [0x12] :: rest) :
    step s = .next { s with schedule := sch, req := rest, stopq := s.stopq + 1 } := by
  rw [stepRunsDecoded s sch _ rest _ hsch hreq stopResult.1,
    exec_stop_of_ready (s := { s with schedule := sch, req := rest }) hready, if_pos hbusy, if_neg hroom.ne]

/-- A `ROLL` that finds the gate free goes out, whatever waits (R181). -/
theorem step_of_roll_admitted {s : State} {sch : List Arrival} {rest : List (List Byte)} {h : Word16} {sp k : Byte}
    (hready : s.ready = true) (hfree : s.busy = false) (hsch : s.schedule = .request :: sch)
    (hreq : s.req = [0x11, highByte h, lowByte h, sp, k] :: rest) :
    step s = .next { gatedSent 0x30 [sp, highByte h, lowByte h, k] { s with schedule := sch, req := rest } with
      lastHeading := h } := by
  rw [stepRunsDecoded s sch _ rest _ hsch hreq (rollResult.1 h sp k),
    exec_roll_of_ready (s := { s with schedule := sch, req := rest }) hready, if_neg (by simp [hfree])]

/-- A tick that finds the gate free and a stop waiting sends it (R185). -/
theorem step_of_tick_sends {s : State} {sch : List Arrival} (hfree : s.busy = false) (hwaiting : 0 < s.stopq)
    (hticks : 0 < s.ticks) (hsch : s.schedule = .tick :: sch) :
    step s = .next (stopSent { s with schedule := sch, ticks := s.ticks - 1, stopq := s.stopq - 1 }) := by
  rw [tickResult s sch (s.ticks - 1) hsch (Nat.sub_add_cancel hticks).symm]
  exact congrArg _ (if_pos ⟨hwaiting, hfree⟩)

/-- A stop queued behind a write in flight, then the settle of that write: the stop waits, and the gate is free. -/
theorem run_of_stop_then_settle {s : State} {sch : List Arrival} {rest : List (List Byte)} {status : Status}
    {settles : List SettleEvent} (hready : s.ready = true) (hbusy : s.busy = true) (hroom : s.stopq < 255)
    (hflight : 0 < s.inflightG) (hsch : s.schedule = .request :: .settle :: sch) (hreq : s.req = [0x12] :: rest)
    (hset : s.settle = ⟨.G, status⟩ :: settles) (k : Nat) :
    run (k + 2) s = run k (gatedSettled status
      { s with schedule := sch, req := rest, settle := settles, stopq := s.stopq + 1 }) :=
  calc run (k + 2) s
    _ = run (k + 1) _ := run_succ_of_step (k + 1) (step_of_stop_queued hready hbusy hroom hsch hreq)
    _ = run k _ := run_succ_of_step k (step_of_gated_settle rfl hset hflight)

/-- Settles O35: the stop is queued, the write settles and frees the gate, and the tick finds the stop waiting. -/
theorem queuedStopIsSentAfterSettle : Obligations.QueuedStopIsSentAfterSettle := by
  intro s status rest sch settles hready hbusy hflight hroom hreq hset hticks hsch
  have hqueued := step_of_stop_queued hready hbusy hroom hsch hreq
  have hsettled := run_of_stop_then_settle hready hbusy hroom hflight hsch hreq hset
  exact ⟨_, _, _, run_succ_of_step 0 hqueued, rfl, hsettled 0, rfl,
    (hsettled 1).trans (run_succ_of_step 0 (step_of_tick_sends rfl s.stopq.succ_pos hticks rfl)), rfl, rfl, rfl⟩

/-- Settles O36: the gate that the first settle frees is taken by the roll, which records its heading; the tick after
the second settle sends the stop with it. -/
theorem waitingStopSeesLaterRoll : Obligations.WaitingStopSeesLaterRoll := by
  intro s h sp k status status' rest sch settles hready hbusy hflight hroom hreq hset hticks hsch
  have hpos : 0 < s.inflightG := by omega
  have hrun :=
    calc run 5 s
      _ = run 3 _ := run_of_stop_then_settle hready hbusy hroom hpos hsch hreq hset 3
      _ = run 2 _ := run_succ_of_step 2 (step_of_roll_admitted hready rfl rfl rfl)
      _ = run 1 _ := run_succ_of_step 1 (step_of_gated_settle rfl rfl (Nat.succ_pos _))
      _ = .next _ := run_succ_of_step 0 (step_of_tick_sends rfl (Nat.succ_pos _) hticks rfl)
  exact ⟨_, hrun, rfl, List.append_assoc ..⟩

end Sys2Proof.Machine
end

section
/-! PROOF. The heading of the mapper (spec/44_motionmapper.md R221, R223): in each quadrant the real angle is a number
of quarter turns and the argument of a first-quadrant point, whose degrees `quadrantDegrees` rounds. -/

namespace Sys2Proof.Machine

/-! ## The quadrants -/

theorem headingOf_origin : headingOf 0 0 = 180 := rfl

/-- Above the centre and not to its left. -/
theorem headingOf_up {x : Nat} (hx : 0 < x) (y : Nat) : headingOf y (-x) = quadrantDegrees x y := by
  rw [headingOf, if_neg (by omega), if_pos (by omega), Int.natAbs_neg, Int.natAbs_natCast, Int.natAbs_natCast]

/-- To the right of the centre and not above it. -/
theorem headingOf_right {x : Nat} (hx : 0 < x) (y : Nat) : headingOf x y = 90 + quadrantDegrees x y := by
  rw [headingOf, if_neg (by omega), if_neg (by omega), if_pos (by omega), Int.natAbs_natCast, Int.natAbs_natCast]

/-- Below the centre and not to its right. -/
theorem headingOf_down {x : Nat} (hx : 0 < x) (y : Nat) : headingOf (-y) x = 180 + quadrantDegrees x y := by
  rw [headingOf, if_neg (by omega), if_neg (by omega), if_neg (by omega), if_pos (by omega), Int.natAbs_neg,
    Int.natAbs_natCast, Int.natAbs_natCast]

/-- To the left of the centre and not below it. -/
theorem headingOf_left {x : Nat} (hx : 0 < x) (y : Nat) : headingOf (-x) (-y) = 270 + quadrantDegrees x y := by
  rw [headingOf, if_neg (by omega), if_neg (by omega), if_neg (by omega), if_neg (by omega), Int.natAbs_neg,
    Int.natAbs_neg, Int.natAbs_natCast, Int.natAbs_natCast]

/-- Every touch is at the centre or in one of the four quadrants. -/
theorem exists_quadrant (a b : Int) :
    (a = 0 ∧ b = 0) ∨ ∃ x y : Nat, 0 < x ∧
      ((a = y ∧ b = -x) ∨ (a = x ∧ b = y) ∨ (a = -y ∧ b = x) ∨ (a = -x ∧ b = -y)) := by
  by_cases hup : 0 ≤ a ∧ b < 0
  · exact .inr ⟨b.natAbs, a.natAbs, by omega, by omega⟩
  by_cases hright : 0 < a ∧ 0 ≤ b
  · exact .inr ⟨a.natAbs, b.natAbs, by omega, by omega⟩
  by_cases hdown : a ≤ 0 ∧ 0 < b
  · exact .inr ⟨b.natAbs, a.natAbs, by omega, by omega⟩
  by_cases hleft : a < 0 ∧ b ≤ 0
  · exact .inr ⟨a.natAbs, b.natAbs, by omega, by omega⟩
  · exact .inl (by omega)

/-! ## The real angle -/

/-- `theta` of R221 step 2: the real angle of a touch, clockwise from straight up. -/
noncomputable def theta (a b : Int) : ℝ := Real.pi - Complex.arg ⟨b, a⟩

/-- The angle is in `[0, 2π)` (R226). -/
theorem theta_bounds (a b : Int) : 0 ≤ theta a b ∧ theta a b < 2 * Real.pi := by
  have hle := Complex.arg_le_pi ⟨b, a⟩
  have hlt := Complex.neg_pi_lt_arg ⟨b, a⟩
  constructor <;> rw [theta] <;> linarith

/-- A point at the distance of `w` in the direction `π - t` is `t` clockwise from straight up. -/
theorem pi_sub_arg_eq {z w : ℂ} {t : ℝ} (hw : w ≠ 0) (ht : 0 ≤ t ∧ t < 2 * Real.pi)
    (hre : z.re = -(‖w‖ * Real.cos t)) (him : z.im = ‖w‖ * Real.sin t) : Real.pi - Complex.arg z = t := by
  have hz : z = (‖w‖ : ℝ) * (Complex.cos (Real.pi - t : ℝ) + Complex.sin (Real.pi - t : ℝ) * Complex.I) := by
    rw [← Complex.ofReal_cos, ← Complex.ofReal_sin, Real.cos_pi_sub, Real.sin_pi_sub]
    apply Complex.ext <;> simp only [hre, him, Complex.add_re, Complex.add_im, Complex.re_ofReal_mul,
      Complex.im_ofReal_mul, Complex.I_re, Complex.I_im, Complex.ofReal_re, Complex.ofReal_im] <;> ring
  rw [hz, Complex.arg_mul_cos_add_sin_mul_I (norm_pos_iff.2 hw) ⟨by linarith, by linarith⟩]
  ring

section Quadrant
variable {x : Nat} (hx : 0 < x) (y : Nat)
include hx

/-- The first-quadrant point `(x, y)`, turned by up to three quarters, has that turn added to its angle. -/
theorem theta_eq_turn_add_arg {a b : Int} {q : ℝ} (hq : 0 ≤ q ∧ q ≤ Real.pi + Real.pi / 2)
    (hb : (b : ℝ) = y * Real.sin q - x * Real.cos q) (ha : (a : ℝ) = x * Real.sin q + y * Real.cos q) :
    theta a b = q + Complex.arg ⟨x, y⟩ := by
  have hne : (⟨x, y⟩ : ℂ) ≠ 0 := Turn.point_ne_zero (u := ⟨0, x, y⟩) hx
  have hφ : 0 ≤ Complex.arg ⟨x, y⟩ ∧ Complex.arg ⟨x, y⟩ < Real.pi / 2 :=
    Turn.arg_point_bounds (u := ⟨0, x, y⟩) hx
  have hcos := Complex.norm_mul_cos_arg ⟨x, y⟩
  have hsin := Complex.norm_mul_sin_arg ⟨x, y⟩
  refine pi_sub_arg_eq hne ⟨add_nonneg hq.1 hφ.1, by linarith [hφ.2]⟩ ?_ ?_
  · rw [hb, Real.cos_add]
    linear_combination Real.cos q * hcos - Real.sin q * hsin
  · rw [ha, Real.sin_add]
    linear_combination -Real.sin q * hcos - Real.cos q * hsin

theorem theta_up : theta y (-x) = 0 + Complex.arg ⟨x, y⟩ :=
  theta_eq_turn_add_arg hx y ⟨le_rfl, by positivity⟩ (by simp) (by simp)

theorem theta_right : theta x y = Real.pi / 2 + Complex.arg ⟨x, y⟩ :=
  theta_eq_turn_add_arg hx y ⟨by positivity, by linarith [Real.pi_pos]⟩ (by simp) (by simp)

theorem theta_down : theta (-y) x = Real.pi + Complex.arg ⟨x, y⟩ :=
  theta_eq_turn_add_arg hx y ⟨by positivity, by linarith [Real.pi_pos]⟩ (by simp) (by simp)

theorem theta_left : theta (-x) (-y) = Real.pi + Real.pi / 2 + Complex.arg ⟨x, y⟩ :=
  theta_eq_turn_add_arg hx y ⟨by positivity, le_rfl⟩ (by simp [Real.sin_add, Real.cos_add])
    (by simp [Real.sin_add, Real.cos_add])

end Quadrant

/-! ## Whole degrees -/

/-- `round(deg)` of R221 step 2, halves up (R224). -/
noncomputable def roundedDegrees (a b : Int) : Int := ⌊theta a b * 180 / Real.pi + 1 / 2⌋

/-- Quarter turns are whole degrees, so only the rest of the angle is rounded. -/
theorem roundedDegrees_of_quarters {a b : Int} {x : Nat} (hx : 0 < x) (y k : Nat)
    (h : theta a b = k * (Real.pi / 2) + Complex.arg ⟨x, y⟩) :
    roundedDegrees a b = (90 * k + quadrantDegrees x y : Nat) := by
  have hdeg : theta a b * 180 / Real.pi + 1 / 2 =
      Complex.arg ⟨x, y⟩ * 180 / Real.pi + 1 / 2 + (90 * k : Nat) := by
    have := Real.pi_ne_zero
    rw [h]
    push_cast
    field_simp
    ring
  rw [roundedDegrees, hdeg, Int.floor_add_natCast, ← quadrantDegrees_eq_floor hx, Nat.cast_add, add_comm]

/-- At the centre the angle is `π` (R223). -/
theorem roundedDegrees_origin : roundedDegrees 0 0 = 180 := by
  have h0 : (⟨((0 : Int) : ℝ), ((0 : Int) : ℝ)⟩ : ℂ) = 0 := by simp [Complex.ext_iff]
  have := Real.pi_ne_zero
  rw [roundedDegrees, theta, h0, Complex.arg_zero, sub_zero, mul_div_cancel_left₀ _ this, Int.floor_eq_iff]
  norm_num

/-- The heading is the rounded real angle: the quadrants add 0 to 3 quarter turns to a first-quadrant point. -/
theorem headingOf_eq_roundedDegrees (a b : Int) : (headingOf a b : Int) = roundedDegrees a b := by
  obtain ⟨rfl, rfl⟩ | ⟨x, y, hx, ⟨rfl, rfl⟩ | ⟨rfl, rfl⟩ | ⟨rfl, rfl⟩ | ⟨rfl, rfl⟩⟩ := exists_quadrant a b
  · rw [headingOf_origin, roundedDegrees_origin]; rfl
  · rw [headingOf_up hx, roundedDegrees_of_quarters hx y 0 (by rw [theta_up hx]; push_cast; ring), mul_zero,
      zero_add]
  · rw [headingOf_right hx, roundedDegrees_of_quarters hx y 1 (by rw [theta_right hx]; push_cast; ring)]
  · rw [headingOf_down hx, roundedDegrees_of_quarters hx y 2 (by rw [theta_down hx]; push_cast; ring)]
  · rw [headingOf_left hx, roundedDegrees_of_quarters hx y 3 (by rw [theta_left hx]; push_cast; ring)]

/-- Settles O37: the formula is `roundedDegrees`, which the heading is in every quadrant and at the centre. -/
theorem headingIsRoundedArctangent : Obligations.HeadingIsRoundedArctangent := headingOf_eq_roundedDegrees

/-! ## Directions -/

/-- The angle depends only on the direction (R227). -/
theorem theta_mul {c : Int} (hc : 1 ≤ c) (a b : Int) : theta (c * a) (c * b) = theta a b := by
  have hpoint : (⟨((c * b : Int) : ℝ), ((c * a : Int) : ℝ)⟩ : ℂ) = ((c : ℝ) : ℂ) * ⟨b, a⟩ := by
    apply Complex.ext <;> simp
  rw [theta, hpoint, Complex.arg_real_mul _ (by exact_mod_cast hc), theta]

/-- So does the heading. -/
theorem headingOf_mul {c : Int} (hc : 1 ≤ c) (a b : Int) : headingOf (c * a) (c * b) = headingOf a b := by
  have h : roundedDegrees (c * a) (c * b) = roundedDegrees a b := by
    rw [roundedDegrees, theta_mul hc, roundedDegrees]
  rwa [← headingOf_eq_roundedDegrees, ← headingOf_eq_roundedDegrees, Nat.cast_inj] at h

/-- The eight directions at distance 1 (R227). -/
theorem headingOf_unit :
    headingOf 0 (-1) = 0 ∧ headingOf 1 (-1) = 45 ∧ headingOf 1 0 = 90 ∧ headingOf 1 1 = 135 ∧ headingOf 0 1 = 180 ∧
      headingOf (-1) 1 = 225 ∧ headingOf (-1) 0 = 270 ∧ headingOf (-1) (-1) = 315 := by
  decide +kernel

/-- Settles O40: the distance is scaled away, and the eight directions are left at distance 1. -/
theorem headingCompass : Obligations.HeadingCompass := by
  refine ⟨fun c hc => ?_, fun a b c hc => headingOf_mul hc a b⟩
  obtain ⟨h0, h45, h90, h135, h180, h225, h270, h315⟩ := headingOf_unit
  rw [← headingOf_mul hc] at h0 h45 h90 h135 h180 h225 h270 h315
  simp only [mul_zero, mul_one, mul_neg] at h0 h45 h90 h135 h180 h225 h270 h315
  exact ⟨h0, h45, h90, h135, h180, h225, h270, h315⟩

/-! ## The range -/

/-- Headings run to 360 (R226). -/
theorem headingOf_le (a b : Int) : headingOf a b ≤ 360 := by
  have hdeg : theta a b * 180 / Real.pi < 360 := by
    rw [div_lt_iff₀ Real.pi_pos]
    linarith [theta_bounds a b]
  have hlt : roundedDegrees a b < 361 := Int.floor_lt.2 (by push_cast; linarith)
  rw [← headingOf_eq_roundedDegrees] at hlt
  omega

/-- The heading is 360 just when the touch is within half a degree of a full turn. -/
theorem headingOf_eq_360_iff_arg (a b : Int) :
    headingOf a b = 360 ↔ Complex.arg ⟨b, a⟩ ≤ Real.pi / 360 - Real.pi := by
  have hle := headingOf_le a b
  calc headingOf a b = 360
    _ ↔ (360 : Int) ≤ roundedDegrees a b := by rw [← headingOf_eq_roundedDegrees]; omega
    _ ↔ 719 / 2 ≤ theta a b * 180 / Real.pi := by
      rw [roundedDegrees, Int.le_floor, ← sub_le_iff_le_add]; norm_num
    _ ↔ Complex.arg ⟨b, a⟩ ≤ Real.pi / 360 - Real.pi := by
      rw [le_div_iff₀ Real.pi_pos, theta]; constructor <;> intro h <;> linarith

/-- An argument at most `δ < π/2` above `-π`: the third quadrant, within `δ` of the negative real axis. -/
theorem arg_le_sub_pi_iff {z : ℂ} {δ : ℝ} (h0 : 0 < δ) (h1 : δ < Real.pi / 2) :
    Complex.arg z ≤ δ - Real.pi ↔ z.im < 0 ∧ z.re < 0 ∧ |z.im| / |z.re| ≤ Real.tan δ := by
  by_cases hz : z.re < 0 ∧ z.im < 0
  case neg =>
    have hright : -(Real.pi / 2) ≤ Complex.arg z := Complex.neg_pi_div_two_le_arg_iff.2 (by
      simpa only [not_and_or, not_lt] using hz)
    exact ⟨fun h => by linarith, fun ⟨him, hre, _⟩ => absurd ⟨hre, him⟩ hz⟩
  case pos =>
    obtain ⟨hre, him⟩ := hz
    have hback : Complex.arg (-z) = Complex.arg z + Real.pi := Complex.arg_neg_eq_arg_add_pi_of_im_neg him
    have hacute := abs_lt.1 (Complex.abs_arg_lt_pi_div_two_iff.2 (.inl (by simpa using hre : 0 < (-z).re)))
    have htan : |z.im| / |z.re| = Real.tan (Complex.arg (-z)) := by
      rw [Complex.tan_arg, abs_of_neg him, abs_of_neg hre, Complex.neg_im, Complex.neg_re]
    rw [htan, Real.strictMonoOn_tan.le_iff_le hacute ⟨by linarith, h1⟩, hback, ← le_sub_iff_add_le]
    exact ⟨fun h => ⟨him, hre, h⟩, fun h => h.2.2⟩

/-- The heading is 360 just for the touches that R226 names. -/
theorem headingOf_eq_360_iff (a b : Int) :
    headingOf a b = 360 ↔ a < 0 ∧ b < 0 ∧ |(a : ℝ)| / |(b : ℝ)| ≤ Real.tan (Real.pi / 360) := by
  have hpi := Real.pi_pos
  rw [headingOf_eq_360_iff_arg, arg_le_sub_pi_iff (by linarith) (by linarith), Int.cast_lt_zero, Int.cast_lt_zero]

end Sys2Proof.Machine
end

section
/-! PROOF. The speed of the mapper (spec/44_motionmapper.md R225): the greatest natural number of the integer rule, its
real value, and the widths behind it (R226, R228). -/

namespace Sys2Proof.Machine

/-! ## Widths -/

/-- A radius other than 0 is at least 1 (R221). -/
theorem radius_pos {radius : Word16} (h : radius ≠ 0) : 0 < radius.toNat :=
  Nat.pos_of_ne_zero fun h0 => h (BitVec.eq_of_toNat_eq h0)

/-- A pad-relative coordinate has 17 bits (R228). -/
theorem padRelative_bounds (t o : Word16) : -65535 ≤ t.toInt - o.toInt ∧ t.toInt - o.toInt ≤ 65535 := by
  have := BitVec.le_toInt t
  have := BitVec.toInt_lt (x := t)
  have := BitVec.le_toInt o
  have := BitVec.toInt_lt (x := o)
  omega

/-- A radius shifts a centre-relative coordinate, at most 65535 away (R228). -/
theorem centreRelative_bounds (t o radius : Word16) :
    -65535 - (radius.toNat : Int) ≤ centreRelative t o radius ∧
      centreRelative t o radius ≤ 65535 - (radius.toNat : Int) := by
  have := padRelative_bounds t o
  rw [centreRelative]
  omega

theorem centreRelative_mem (t o radius : Word16) :
    -131070 ≤ centreRelative t o radius ∧ centreRelative t o radius ≤ 65535 := by
  have := centreRelative_bounds t o radius
  have := radius.isLt
  omega

/-- The square of a centre-relative coordinate is at most that of its lower bound (R228). -/
theorem centreRelative_sq_le (t o radius : Word16) : centreRelative t o radius ^ 2 ≤ 131070 ^ 2 := by
  have := centreRelative_mem t o radius
  exact sq_le_sq' (by omega) (by omega)

/-- `mag²` of R221 step 3, the natural number `n` of R225. -/
def magSq (a b : Int) : Nat := a.natAbs ^ 2 + b.natAbs ^ 2

theorem magSq_cast (a b : Int) : (magSq a b : Int) = a * a + b * b := by
  rw [magSq]
  push_cast [Int.natCast_natAbs, sq_abs]
  ring

/-- With a radius of at least 1 a touch lies at most 65536 radii from the centre, along each axis. -/
theorem magSq_centreRelative_le (tx ty ox oy : Word16) {radius : Word16} (h : radius ≠ 0) :
    magSq (centreRelative tx ox radius) (centreRelative ty oy radius) ≤ 2 * (65536 * radius.toNat) ^ 2 := by
  have hpos : 0 < radius.toNat := radius_pos h
  have hside (t o : Word16) : (centreRelative t o radius).natAbs ^ 2 ≤ (65536 * radius.toNat) ^ 2 := by
    have := centreRelative_bounds t o radius
    exact Nat.pow_le_pow_left (by omega) 2
  have := hside tx ox
  have := hside ty oy
  rw [magSq]
  omega

/-! ## The integer rule -/

/-- The rule of R225: `s` is 0, or `((2 s - 1) radius)² ≤ 260100 n`. -/
def SpeedRule (n radius s : Nat) : Prop := s = 0 ∨ ((2 * s - 1) * radius) ^ 2 ≤ 260100 * n

/-- The rule says that `s` is at most the real speed and a half (R225). -/
theorem speedRule_iff {n radius s : Nat} (h : 0 < radius) :
    SpeedRule n radius s ↔ (s : ℝ) ≤ 255 * Real.sqrt n / radius + 1 / 2 := by
  have hr : (0 : ℝ) < radius := by exact_mod_cast h
  cases s with
  | zero => exact ⟨fun _ => by push_cast; positivity, fun _ => .inl rfl⟩
  | succ s =>
    have hsq : (510 * Real.sqrt n) ^ 2 = 260100 * n := by rw [mul_pow, Real.sq_sqrt n.cast_nonneg]; norm_num
    calc SpeedRule n radius (s + 1)
      _ ↔ ((2 * s + 1) * radius) ^ 2 ≤ 260100 * n := by simp [SpeedRule, mul_add]
      _ ↔ (((2 * s + 1) * radius : ℝ)) ^ 2 ≤ (510 * Real.sqrt n) ^ 2 := by rw [hsq]; norm_cast
      _ ↔ (2 * s + 1) * radius ≤ 510 * Real.sqrt n :=
        pow_le_pow_iff_left₀ (by positivity) (by positivity) two_ne_zero
      _ ↔ (s + 1 : Nat) - 1 / 2 ≤ 255 * Real.sqrt n / radius := by
        rw [le_div_iff₀ hr]; push_cast; constructor <;> intro h <;> linarith
      _ ↔ _ := sub_le_iff_le_add

/-- Where the touch lies at most 65536 radii away along each axis, the rule stops at 23 633 885 (R226). -/
theorem SpeedRule.le {n radius s : Nat} (hs : SpeedRule n radius s) (h : 0 < radius)
    (hn : n ≤ 2 * (65536 * radius) ^ 2) : s ≤ 23633885 := by
  obtain rfl | hs := hs
  · exact Nat.zero_le _
  by_contra hlarge
  have hodd : 47267771 ≤ 2 * s - 1 := by omega
  have : (47267771 * radius) ^ 2 ≤ 260100 * (2 * (65536 * radius) ^ 2) :=
    calc (47267771 * radius) ^ 2
      _ ≤ ((2 * s - 1) * radius) ^ 2 := Nat.pow_le_pow_left (Nat.mul_le_mul_right _ hodd) 2
      _ ≤ 260100 * n := hs
      _ ≤ _ := Nat.mul_le_mul_left _ hn
  have : 0 < radius ^ 2 := Nat.pow_pos h
  simp only [mul_pow] at *
  omega

/-- The speed meets the rule, and no number of 32 bits above it does. -/
theorem speedOf_spec (a b : Int) (radius : Nat) :
    SpeedRule (magSq a b) radius (speedOf a b radius) ∧
      ∀ s < 2 ^ 32, SpeedRule (magSq a b) radius s → s ≤ speedOf a b radius := by
  obtain ⟨hrule, -, -, hgreatest⟩ := speedSearch_spec (magSq a b) radius 32 0 (.inl rfl)
  refine ⟨hrule, fun s hs h => ?_⟩
  by_contra hlt
  have := hgreatest s (not_le.1 hlt) (by simpa using hs)
  obtain rfl | h := h
  · exact hlt (Nat.zero_le _)
  · omega

/-! ## The speed of all operands -/

section Operands
variable (tx ty ox oy : Word16) {radius : Word16} (h : radius ≠ 0)
include h

theorem speedRule_centreRelative_le {s : Nat}
    (hs : SpeedRule (magSq (centreRelative tx ox radius) (centreRelative ty oy radius)) radius.toNat s) :
    s ≤ 23633885 :=
  hs.le (radius_pos h) (magSq_centreRelative_le tx ty ox oy h)

theorem speedOf_le : speedOf (centreRelative tx ox radius) (centreRelative ty oy radius) radius.toNat ≤ 23633885 :=
  speedRule_centreRelative_le tx ty ox oy h (speedOf_spec _ _ _).1

/-- The search loses nothing: its 32 bits hold every number of the rule (R226). -/
theorem isGreatest_speedOf :
    IsGreatest {s | SpeedRule (magSq (centreRelative tx ox radius) (centreRelative ty oy radius)) radius.toNat s}
      (speedOf (centreRelative tx ox radius) (centreRelative ty oy radius) radius.toNat) := by
  obtain ⟨hrule, hgreatest⟩ := speedOf_spec (centreRelative tx ox radius) (centreRelative ty oy radius) radius.toNat
  exact ⟨hrule, fun s hs => hgreatest s (by have := speedRule_centreRelative_le tx ty ox oy h hs; omega) hs⟩

end Operands

/-- The greatest number of the rule is the real speed, rounded half up (R224, R225). -/
theorem eq_floor_of_isGreatest {n radius s : Nat} (h : 0 < radius) (hs : IsGreatest {s | SpeedRule n radius s} s) :
    (s : Int) = ⌊255 * Real.sqrt n / radius + 1 / 2⌋ := by
  obtain ⟨hrule, hupper⟩ := hs
  have hnext : ¬ SpeedRule n radius (s + 1) := fun hr => Nat.not_succ_le_self s (hupper hr)
  rw [speedRule_iff h, not_le] at hnext
  symm
  rw [Int.floor_eq_iff]
  exact ⟨by simpa using (speedRule_iff h).1 hrule, by simpa using hnext⟩

/-- Settles O38: the search answers the greatest number of the rule, and that is the real speed rounded. -/
theorem speedIsRoundedAndGreatest : Obligations.SpeedIsRoundedAndGreatest := by
  intro tx ty ox oy radius h a b n
  have hn : n = magSq a b := by simp only [n, ← magSq_cast, Int.toNat_natCast]
  rw [hn]
  have hgreatest := isGreatest_speedOf tx ty ox oy h
  exact ⟨eq_floor_of_isGreatest (radius_pos h) hgreatest, hgreatest⟩

/-- Settles O41: the headings' range and its end, the bound of the speed rule, and the speed that reaches it. -/
theorem mapResultRanges : Obligations.MapResultRanges :=
  ⟨headingOf_le, headingOf_eq_360_iff, fun tx ty ox oy _ h => speedOf_le tx ty ox oy h, by decide +kernel⟩

/-- Settles O42: the bounds of the coordinates, their squares, and the speed bound of R226. -/
theorem mapIntermediateWidths : Obligations.MapIntermediateWidths := by
  refine ⟨fun t o radius => ?_, fun tx ty ox oy radius => ⟨?_, fun h => ?_⟩⟩
  · obtain ⟨hlo, hhi⟩ := padRelative_bounds t o
    exact ⟨hlo, hhi, centreRelative_mem t o radius⟩
  · have := centreRelative_sq_le tx ox radius
    have := centreRelative_sq_le ty oy radius
    linarith
  · have := speedOf_le tx ty ox oy h
    omega

end Sys2Proof.Machine
end

section
/-! PROOF. What `MAP` answers (spec/44_motionmapper.md R221) and what `JOY` sends (R230, R231). -/

namespace Sys2Proof.Machine

/-! ## `MAP` -/

/-- The two bytes of a heading, read off the integer (R221). -/
theorem be16_ofNat {n : Nat} (h : n < 2 ^ 16) :
    be16 (BitVec.ofNat 16 n) = [BitVec.ofInt 8 ((n : Int) / 256), BitVec.ofInt 8 ((n : Int) % 256)] := by
  rw [be16, BitVec.toNat_ofNat, Nat.mod_eq_of_lt h, ← BitVec.ofInt_natCast, ← BitVec.ofInt_natCast]
  rfl

/-- The four bytes of a speed, read off the integer (R221). -/
theorem be32_ofNat {n : Nat} (h : n < 2 ^ 32) :
    be32 (BitVec.ofNat 32 n) = [BitVec.ofInt 8 ((n : Int) / 2 ^ 24), BitVec.ofInt 8 ((n : Int) / 2 ^ 16 % 256),
      BitVec.ofInt 8 ((n : Int) / 2 ^ 8 % 256), BitVec.ofInt 8 ((n : Int) % 256)] := by
  rw [be32, BitVec.toNat_ofNat, Nat.mod_eq_of_lt h]
  simp only [← BitVec.ofInt_natCast]
  rfl

/-- `MAP` with a radius of 0 reports `InvalidGeometry` on both traces (R221, R222). -/
theorem exec_map_zero (tx ty ox oy : Word16) (aim : Bool) (s : State) :
    exec (.map tx ty ox oy 0 aim) s = .next { s with rspLog := s.rspLog ++ [[0x05]], diagLog := s.diagLog ++ [0x05] } :=
  rfl

/-- `MAP` otherwise answers the mapper's heading and speed (R221). -/
theorem exec_map_ok {tx ty ox oy radius : Word16} {aim : Bool} {v : MotionVector}
    (hv : mapVector tx ty ox oy radius aim = .ok v) (s : State) :
    exec (.map tx ty ox oy radius aim) s =
      .next { s with rspLog := s.rspLog ++ [0x00 :: (be16 v.heading ++ be32 v.speed)] } := by
  simp only [exec, execMap, hv]
  rfl

/-- The speed of a touch, 0 when aiming (R221 steps 3 and 4). -/
def mappedSpeed (tx ty ox oy radius : Word16) (aim : Bool) : Nat :=
  if aim then 0 else speedOf (centreRelative tx ox radius) (centreRelative ty oy radius) radius.toNat

section Operands
variable (tx ty ox oy : Word16) {radius : Word16} (h : radius ≠ 0) (aim : Bool)
include h

theorem mapVector_eq : mapVector tx ty ox oy radius aim =
    .ok ⟨BitVec.ofNat 16 (headingOf (centreRelative tx ox radius) (centreRelative ty oy radius)),
      BitVec.ofNat 32 (mappedSpeed tx ty ox oy radius aim)⟩ := by
  rw [mapVector_ok h, mappedSpeed]
  cases aim <;> rfl

theorem mappedSpeed_lt : mappedSpeed tx ty ox oy radius aim < 2 ^ 32 := by
  have := speedOf_le tx ty ox oy h
  rw [mappedSpeed]
  split <;> omega

/-- The mapper's speed is the real formula of R221, written with the division first. -/
theorem mappedSpeed_eq_floor :
    (mappedSpeed tx ty ox oy radius aim : Int) =
      let a := centreRelative tx ox radius
      let b := centreRelative ty oy radius
      if aim then 0 else ⌊Real.sqrt ((a : ℝ) * a + (b : ℝ) * b) / (radius.toNat : ℝ) * 255 + 1 / 2⌋ := by
  cases aim with
  | true => rfl
  | false =>
    have hn (a b : Int) : (a : ℝ) * a + (b : ℝ) * b = magSq a b := by exact_mod_cast (magSq_cast a b).symm
    refine (eq_floor_of_isGreatest (radius_pos h) (isGreatest_speedOf tx ty ox oy h)).trans ?_
    simp only [hn, Bool.false_eq_true, if_false, mul_comm (255 : ℝ), mul_div_right_comm]

end Operands

/-- Settles O39: the packet is the encoder's; heading and speed are those of the real formula and fit their bytes. -/
theorem mapResult : Obligations.MapResult := by
  refine ⟨fun tx ty ox oy radius aim => decodeOfEncode (.map tx ty ox oy radius aim) rfl, exec_map_zero, ?_⟩
  intro tx ty ox oy radius aim s h a b heading speed
  have hheading : heading = headingOf a b := (headingIsRoundedArctangent a b).symm
  have hspeed : speed = mappedSpeed tx ty ox oy radius aim := (mappedSpeed_eq_floor tx ty ox oy h aim).symm
  have hh : headingOf (centreRelative tx ox radius) (centreRelative ty oy radius) < 2 ^ 16 :=
    (headingOf_le _ _).trans_lt (by decide)
  have hs : mappedSpeed tx ty ox oy radius aim < 2 ^ 32 := mappedSpeed_lt tx ty ox oy h aim
  rw [hheading, hspeed]
  refine ⟨Int.natCast_nonneg _, by exact_mod_cast hh, Int.natCast_nonneg _, by exact_mod_cast hs, ?_⟩
  rw [exec_map_ok (mapVector_eq tx ty ox oy h aim), be16_ofNat hh, be32_ofNat hs]
  rfl

/-! ## `JOY` -/

/-- `JOY` with a radius of 0 and `READY` at 1 reports on `DIAG` alone, whatever the gate (R230). -/
theorem exec_joy_zero {s : State} (hready : s.ready = true) (tx ty ox oy : Word16) (aim : Bool) :
    exec (.joy tx ty ox oy 0 aim) s = .next { s with diagLog := s.diagLog ++ [0x05] } :=
  whenReady_ready _ hready

/-- `JOY` otherwise is dropped, or sends the roll of the mapper's result and records its heading (R230). -/
theorem exec_joy_ok {s : State} (hready : s.ready = true) {tx ty ox oy radius : Word16} {aim : Bool} {v : MotionVector}
    (hv : mapVector tx ty ox oy radius aim = .ok v) :
    exec (.joy tx ty ox oy radius aim) s = .next (
      if s.busy then s
      else { gatedSent 0x30 [saturatedSpeed v, highByte v.heading, lowByte v.heading, 1] s with
        lastHeading := v.heading }) :=
  (whenReady_ready _ hready).trans (congrArg _ (joyBody_ok hv s))

/-- Saturation sees the whole speed (R231). -/
theorem saturatedSpeed_ofNat {n : Nat} (hn : n < 2 ^ 32) (heading : Word16) :
    saturatedSpeed ⟨heading, BitVec.ofNat 32 n⟩ = BitVec.ofNat 8 (min n 255) := by
  rw [saturatedSpeed, BitVec.toNat_ofNat, Nat.mod_eq_of_lt hn]

/-- A speed of 0 when aiming is below the saturation (R231). -/
theorem min_mappedSpeed (tx ty ox oy radius : Word16) (aim : Bool) :
    min (mappedSpeed tx ty ox oy radius aim) 255 =
      if aim then 0
      else min (speedOf (centreRelative tx ox radius) (centreRelative ty oy radius) radius.toNat) 255 := by
  cases aim <;> rfl

/-- Settles O43: the packet is the encoder's, and the roll is of the mapper's heading and saturated speed. -/
theorem joyResult : Obligations.JoyResult := by
  refine ⟨fun tx ty ox oy radius aim => decodeOfEncode (.joy tx ty ox oy radius aim) rfl,
    fun tx ty ox oy aim _ hready => exec_joy_zero hready tx ty ox oy aim, ?_⟩
  rintro tx ty ox oy radius aim s d speed hready h rfl rfl
  rw [exec_joy_ok hready (mapVector_eq tx ty ox oy h aim), saturatedSpeed_ofNat (mappedSpeed_lt tx ty ox oy h aim),
    min_mappedSpeed]

end Sys2Proof.Machine
end

section
/-! PROOF. Faults (spec/60_exceptions.md R260 to R263), the inputs the machine refuses (R270; U7 and U8 of
spec/93_implementation_defined.md), and the block between inputs (R279). Each function on the way to a step has its
rule for when it refuses: the operation, the packet, the settle event, the delivery. -/

namespace Sys2Proof.Machine

/-! ## Faults -/

/-- An operation leaves the diagnostic trace as it is, or all it does is raise one fault (R262). -/
theorem exec_raises {i : Instr} {s t : State} (h : exec i s = .next t) :
    t.diagLog = s.diagLog ∨
      ∃ f, t = raiseFault (if i.operation.isCommand then .command else .unitOperation) f s := by
  obtain ⟨did, cid, sq, payload, rfl, ⟨-, -, rfl⟩ | ⟨-, rfl⟩⟩ | ⟨-, rfl⟩ | ⟨-, rfl⟩ | ⟨-, rfl⟩ |
    ⟨tx, ty, ox, oy, radius, aim, rfl, ⟨v, -, rfl⟩ | ⟨-, rfl⟩⟩ | ⟨-, -, hc⟩ := exec_cases h
  · exact .inl rfl
  · exact .inr ⟨.invalidPayload, rfl⟩
  · exact .inl rfl
  · exact .inl rfl
  · exact .inl rfl
  · exact .inl rfl
  · exact .inr ⟨.invalidGeometry, rfl⟩
  · obtain ⟨-, -, rfl⟩ | ⟨rfl, -, -, rfl⟩ | ⟨-, -, -, rfl⟩ | ⟨-, -, rfl⟩ | ⟨_, -, -, rfl⟩ | ⟨_, _, _, -, -, rfl⟩ |
      ⟨_, -, rfl⟩ | ⟨_, _, _, -, -, rfl⟩ | ⟨_, _, _, _, _, _, _, -, -, -, rfl⟩ | ⟨_, _, _, _, _, rfl, rfl⟩ := hc
    · exact .inl rfl
    · exact .inr ⟨.stopOverflow, rfl⟩
    · exact .inl rfl
    · exact .inl rfl
    · exact .inl rfl
    · exact .inl rfl
    · exact .inl rfl
    · exact .inl rfl
    · exact .inl rfl
    · exact .inr ⟨.invalidGeometry, rfl⟩

/-- Settles O28: an operation that reports has raised a fault, and so does an illegal packet. -/
theorem faultsChangeNoRegister : Obligations.FaultsChangeNoRegister := by
  refine ⟨fun i s t h hne => ?_, fun p s why hd => ?_⟩
  · obtain ⟨f, rfl⟩ := (exec_raises h).resolve_left hne
    rw [raiseFault_eq]
    exact ⟨rfl, rfl, f.code, rfl, by cases i.operation.isCommand <;> rfl⟩
  · rw [handlePacket_of_decode_illegal hd, raiseFault_eq]
    rfl

/-! ## Refusals -/

/-- A command's body is refused just when `READY` is 0 (U7). -/
theorem whenReady_eq_refused {f : State → State} {s : State} {r : Refusal} :
    whenReady f s = .refused r ↔ s.ready = false ∧ r = .commandBeforeReady := by
  cases hready : s.ready with
  | false => simp [whenReady_notReady f hready, eq_comm]
  | true => simp [whenReady_ready f hready]

/-- Every command is a body that waits for `READY`. -/
theorem exec_command_eq_whenReady {i : Instr} (hcommand : i.operation.isCommand = true) :
    ∃ f, exec i = whenReady f := by
  cases i with
  | build | next | tryEnter | leave | map => cases hcommand
  | setHeading | roll | stop | setColor | setBackLed | joy => exact ⟨_, rfl⟩

/-- A unit operation always answers a next state. -/
theorem exists_exec_unit_eq_next {i : Instr} (hunit : i.operation.isCommand = false) (s : State) :
    ∃ t, exec i s = .next t := by
  cases i with
  | build did cid sq payload =>
    by_cases hlen : 1 ≤ payload.length ∧ payload.length ≤ 254
    · exact ⟨_, exec_build_of_legal hlen did cid sq s⟩
    · exact ⟨_, exec_build_of_illegal hlen did cid sq s⟩
  | next => exact ⟨_, exec_next s⟩
  | tryEnter => exact ⟨_, rfl⟩
  | leave => exact ⟨_, exec_leave s⟩
  | map tx ty ox oy radius aim =>
    by_cases hradius : radius = 0
    · exact ⟨_, hradius ▸ exec_map_zero tx ty ox oy aim s⟩
    · exact ⟨_, exec_map_ok (mapVector_ok hradius tx ty ox oy aim) s⟩
  | setHeading | roll | stop | setColor | setBackLed | joy => cases hunit

/-- The operations that are refused are the commands before `READY` (U7). -/
theorem exec_eq_refused {i : Instr} {s : State} {r : Refusal} :
    exec i s = .refused r ↔ i.operation.isCommand = true ∧ s.ready = false ∧ r = .commandBeforeReady := by
  cases hi : i.operation.isCommand with
  | false =>
    obtain ⟨t, ht⟩ := exists_exec_unit_eq_next hi s
    simp [ht]
  | true =>
    obtain ⟨f, hf⟩ := exec_command_eq_whenReady hi
    simp [hf, whenReady_eq_refused]

/-- A packet is refused just when it is legal and its instruction is. -/
theorem handlePacket_eq_refused {p : List Byte} {s : State} {r : Refusal} :
    handlePacket p s = .refused r ↔ ∃ i, decode p = .instr i ∧ exec i s = .refused r := by
  cases hd : decode p with
  | instr i => simp [handlePacket_of_decode_instr hd]
  | illegal why => simp [handlePacket_of_decode_illegal hd]

/-- A settle event is refused just when nothing is in flight under its tag (R270, U8). -/
theorem settleEvent_eq_refused {e : SettleEvent} {s : State} {r : Refusal} :
    settleEvent e s = .refused r ↔ s.inflight e.tag = 0 ∧ r = .settleWithoutWrite e.tag := by
  obtain ⟨tag, status⟩ := e
  cases tag with
  | G => by_cases hflight : s.inflightG = 0 <;> simp [settleEvent, State.inflight, hflight, eq_comm]
  | U => by_cases hflight : s.inflightU = 0 <;> simp [settleEvent, State.inflight, hflight, eq_comm]

/-! ## Turns that deliver nothing -/

/-- With nothing scheduled a step is idle (R279, log 2). -/
theorem step_of_schedule_nil {s : State} (h : s.schedule = []) : step s = .next s := by
  simp only [step, h]

/-- A turn of `REQ` with no packet presented. -/
theorem deliver_request_of_req_nil {s : State} (h : s.req = []) : deliver .request s = .next s := by
  simp only [deliver, h]

/-- A turn of `SETTLE` with no event presented. -/
theorem deliver_settle_of_settle_nil {s : State} (h : s.settle = []) : deliver .settle s = .next s := by
  simp only [deliver, h]

/-- A turn of `TICK` with no tick presented. -/
theorem deliver_tick_of_ticks_zero {s : State} (h : s.ticks = 0) : deliver .tick s = .next s := by
  simp only [deliver, h]

/-- Settles O45: the turn is consumed, and its stream delivers nothing. -/
theorem idleKeepsAllState : Obligations.IdleKeepsAllState := by
  refine ⟨fun _ => step_of_schedule_nil, fun s sch hsch hreq => ?_, fun s sch hsch hset => ?_,
    fun s sch hsch hticks => ?_⟩ <;> rw [step_of_schedule_cons hsch]
  · exact deliver_request_of_req_nil hreq
  · exact deliver_settle_of_settle_nil hset
  · exact deliver_tick_of_ticks_zero hticks

/-! ## Steps that are refused -/

/-- A turn is refused just when the packet or the settle event it delivers is. -/
theorem deliver_eq_refused {a : Arrival} {s : State} {r : Refusal} :
    deliver a s = .refused r ↔
      (a = .request ∧ ∃ p rest, s.req = p :: rest ∧ handlePacket p { s with req := rest } = .refused r) ∨
      (a = .settle ∧ ∃ e rest, s.settle = e :: rest ∧ settleEvent e { s with settle := rest } = .refused r) := by
  cases a with
  | request =>
    cases hreq : s.req with
    | nil => simp [deliver_request_of_req_nil hreq]
    | cons p rest => simp [deliver_request_of_req_cons hreq]
  | settle =>
    cases hset : s.settle with
    | nil => simp [deliver_settle_of_settle_nil hset]
    | cons e rest => simp [deliver_settle_of_settle_cons hset]
  | tick =>
    cases hticks : s.ticks with
    | zero => simp [deliver_tick_of_ticks_zero hticks]
    | succ n => simp [deliver_tick_of_ticks_succ hticks]
  | ready level => simp [deliver]
  | reset => simp [deliver]

/-- A step is refused just when the turn it takes is. -/
theorem step_eq_refused {s : State} {r : Refusal} :
    step s = .refused r ↔ ∃ a sch, s.schedule = a :: sch ∧ deliver a { s with schedule := sch } = .refused r := by
  cases hsch : s.schedule with
  | nil => simp [step_of_schedule_nil hsch]
  | cons a sch => simp [step_of_schedule_cons hsch]

/-- Settles O46: the rules above, from the step down to the operation and the settle event. -/
theorem refusesOnlyMeaninglessInputs : Obligations.RefusesOnlyMeaninglessInputs := by
  intro s r
  simp only [step_eq_refused, deliver_eq_refused, handlePacket_eq_refused, exec_eq_refused, settleEvent_eq_refused]
  constructor
  · rintro ⟨_, sch, hsch, ⟨rfl, p, rest, hreq, i, hd, hrefused⟩ | ⟨rfl, e, rest, hset, hrefused⟩⟩
    · exact .inl ⟨sch, p, rest, i, hsch, hreq, hd, hrefused⟩
    · exact .inr ⟨sch, e, rest, hsch, hset, hrefused⟩
  · rintro (⟨sch, p, rest, i, hsch, hreq, hd, hrefused⟩ | ⟨sch, e, rest, hsch, hset, hrefused⟩)
    · exact ⟨_, sch, hsch, .inl ⟨rfl, p, rest, hreq, i, hd, hrefused⟩⟩
    · exact ⟨_, sch, hsch, .inr ⟨rfl, e, rest, hset, hrefused⟩⟩

/-- After a reset nothing is in flight (R292). -/
theorem inflight_resetEvent (s : State) (tag : Tag) : (resetEvent s).inflight tag = 0 := by cases tag <;> rfl

/-- Settles O49: the reset forgets the writes in flight, so the settle that follows it has none. -/
theorem lateSettleHasNoMeaning : Obligations.LateSettleHasNoMeaning := by
  intro s sch e rest hsch hset
  have hreset : step s = .next (resetEvent { s with schedule := .settle :: sch }) := step_of_schedule_cons hsch
  rw [run_succ_of_step 1 hreset]
  exact run_succ_of_refused 0 ((refusesOnlyMeaninglessInputs _ _).2
    (.inr ⟨sch, e, rest, rfl, hset, inflight_resetEvent _ e.tag, rfl⟩))

end Sys2Proof.Machine
end

section
/-! PROOF. The reset input during a run (spec/60_exceptions.md R290, R292; log 6). -/

namespace Sys2Proof.Machine

/-- A turn of the reset input is answered by `resetEvent`, whatever the state. -/
theorem step_of_schedule_reset {s : State} {sch : List Arrival} (h : s.schedule = .reset :: sch) :
    step s = .next (resetEvent { s with schedule := sch }) := step_of_schedule_cons h

/-- The reset input leaves the registers of the machine right after reset (R290). -/
@[simp] theorem resetEvent_registers (s : State) : (resetEvent s).registers = State.reset.registers := rfl

/-- Settles O48: the registers are those of R41 (`resetValues`), the traces are empty, and the ports keep what the turn
left there. -/
theorem resetArrivalForgets : Obligations.ResetArrivalForgets := by
  intro s sch hsch
  obtain ⟨hregisters, -⟩ := resetValues
  refine ⟨_, step_of_schedule_reset hsch, (resetEvent_registers _).trans hregisters, ?tracesAndPorts⟩
  case tracesAndPorts => simp

end Sys2Proof.Machine
end
